-- ==== Sys2Proof/Word.lean ====
section
/-! DEFINITION. The value types of the core: byte, word of four bytes, State matrix, key size (spec/00_scope.md R13, R14;
spec/10_state.md R21, R27). Only types and their plainest arithmetic stand here. -/

namespace Sys2Proof

/-- A byte, 0 to 255, bit 7 the most significant (R13). -/
abbrev Byte := BitVec 8

/-- A word: an ordered sequence of four bytes, never a number (R14). -/
structure Word where
  b0 : Byte
  b1 : Byte
  b2 : Byte
  b3 : Byte
deriving DecidableEq, Repr

/-- The zero word `(0, 0, 0, 0)`. -/
def Word.zero : Word := ⟨0, 0, 0, 0⟩

/-- Byte `j` of a word, `w[j]` of R14. -/
def Word.byte (w : Word) (j : Fin 4) : Byte :=
  match j with
  | 0 => w.b0
  | 1 => w.b1
  | 2 => w.b2
  | 3 => w.b3

/-- The word with the given bytes. -/
def Word.ofFn (f : Fin 4 → Byte) : Word := ⟨f 0, f 1, f 2, f 3⟩

/-- XOR of two words, byte by byte (R14). -/
def Word.xor (a b : Word) : Word := ⟨a.b0 ^^^ b.b0, a.b1 ^^^ b.b1, a.b2 ^^^ b.b2, a.b3 ^^^ b.b3⟩

/-- The packing of a word into a 32-bit number: byte 0 in bits [31:24] (R14, decision D14). -/
def Word.toBits (w : Word) : BitVec 32 := w.b0 ++ w.b1 ++ w.b2 ++ w.b3

/-- The shape of the State `S`: 4 x 4 bytes, held as its four columns, each from row 0 down to row 3 (R21, R190). -/
structure Mat4 where
  c0 : Word
  c1 : Word
  c2 : Word
  c3 : Word
deriving DecidableEq, Repr

/-- The State of 16 zero bytes. -/
def Mat4.zero : Mat4 := ⟨Word.zero, Word.zero, Word.zero, Word.zero⟩

/-- The three key sizes `KSEL` can record (R27). The code 0b11 is never held, so it is no value of this type
(spec/93_implementation_defined.md part 2a allows a three-valued type; log entry 9). -/
inductive KeySize where
  | k128
  | k192
  | k256
deriving DecidableEq, Repr

end Sys2Proof
end

