-- ==== Sys2Proof/Syntax.lean ====
section
/-! DEFINITION. The 14 commands of the core, one constructor per row of spec/opcode_table.json (spec/30_encoding.md R86). -/

namespace Sys2Proof

/-- A command as decoding reads it (R89). `ksel` is a code (R83); `klen` and `round` are unsigned integers (R83), bounded by
`Instr.wellFormed`. The data operand `DIN` is not part of the encoding (R80): it stands in the state. -/
inductive Instr where
  /-- Construct a cipher instance: check the request, expand the key into `W` (R149). -/
  | keyexp (ksel : BitVec 2) (klen : Nat)
  /-- Read the round key of one round (R152). -/
  | rdrk (round : Nat)
  /-- Substitute every State byte through `SBOX` (R160). -/
  | subbytes
  /-- Substitute every State byte through `INVSBOX` (R163). -/
  | invsubbytes
  /-- Rotate row `r` of the State left by `r` positions (R166). -/
  | shiftrows
  /-- Rotate row `r` of the State right by `r` positions (R169). -/
  | invshiftrows
  /-- Mix each column of the State (R172). -/
  | mixcolumns
  /-- The inverse column mix (R175). -/
  | invmixcolumns
  /-- XOR the round key of one round into the State (R178). -/
  | addroundkey (round : Nat)
  /-- Multiply two bytes in GF(2^8) (R134). -/
  | gfmul
  /-- Load a block into the State (R191). -/
  | ldstate
  /-- Read the State out as a block (R193). -/
  | rdstate
  /-- Encrypt one block (R196). -/
  | enc
  /-- Decrypt one block (R200). -/
  | dec
deriving DecidableEq, Repr

end Sys2Proof
end

