-- ==== Sys2Proof/WellFormed.lean ====
section
/-! DEFINITION. The ranges of the integer operands of a command (spec/30_encoding.md R83): what an encoding can hold. -/

namespace Sys2Proof

/-- `round` is an unsigned integer 0 to 15 (R83). -/
def roundInRange (round : Nat) : Bool := decide (round < 16)

/-- `klen` is an unsigned byte count 0 to 63 (R83). -/
def klenInRange (klen : Nat) : Bool := decide (klen < 64)

/-- The operands of a command fit their fields. -/
def Instr.wellFormed (i : Instr) : Bool :=
  match i with
  | .keyexp _ klen => klenInRange klen
  | .rdrk round => roundInRange round
  | .addroundkey round => roundInRange round
  | .subbytes => true
  | .invsubbytes => true
  | .shiftrows => true
  | .invshiftrows => true
  | .mixcolumns => true
  | .invmixcolumns => true
  | .gfmul => true
  | .ldstate => true
  | .rdstate => true
  | .enc => true
  | .dec => true

end Sys2Proof
end

