-- ==== Sys2Proof/Decode.lean ====
section
/-! DEFINITION. Decoding a 16-bit command word and encoding a command (spec/30_encoding.md R80, R81, R86, R87, R89). -/

namespace Sys2Proof

/-- Why a word is illegal: the three cases (a), (b), (c) of R87. All three execute as `raise IllegalCommand` (R89). -/
inductive DecodeError where
  /-- (a) The opcode is none of the 14. -/
  | unassignedOpcode
  /-- (b) A format Z opcode with `arg != 0x00`. -/
  | formatZArgNotZero
  /-- (c) A format R opcode with `arg[7:4] != 0`. -/
  | formatRHighNibbleNotZero
deriving DecidableEq, Repr

/-- `opcode = cmd_word[15:8]` (R80). -/
def opcodeField (w : BitVec 16) : BitVec 8 := w.extractLsb' 8 8

/-- `arg = cmd_word[7:0]` (R80). -/
def argField (w : BitVec 16) : BitVec 8 := w.extractLsb' 0 8

/-- `ksel = arg[7:6]` (R81, format K). -/
def kselField (arg : BitVec 8) : BitVec 2 := arg.extractLsb' 6 2

/-- `klen = zext(arg[5:0])` (R81, R83, format K). -/
def klenField (arg : BitVec 8) : Nat := (arg.extractLsb' 0 6).toNat

/-- `arg[7:4]`, the must-be-zero field of format R (R81). -/
def zeroField (arg : BitVec 8) : BitVec 4 := arg.extractLsb' 4 4

/-- `round = zext(arg[3:0])` (R81, R83, format R). -/
def roundField (arg : BitVec 8) : Nat := (arg.extractLsb' 0 4).toNat

/-- The 11 commands of format Z with their opcodes (R86). -/
def formatZTable : List (BitVec 8 × Instr) :=
  [(0x20, .subbytes), (0x21, .invsubbytes), (0x22, .shiftrows), (0x23, .invshiftrows), (0x24, .mixcolumns),
   (0x25, .invmixcolumns), (0x27, .gfmul), (0x30, .ldstate), (0x31, .rdstate), (0x40, .enc), (0x41, .dec)]

/-- A word of format R: the command of a round number, if `arg[7:4]` is zero (R89). -/
def decodeFormatR (arg : BitVec 8) (command : Nat → Instr) : Except DecodeError Instr :=
  if zeroField arg = 0 then .ok (command (roundField arg)) else .error .formatRHighNibbleNotZero

/-- A word of format Z: the command of its opcode, if `arg` is zero (R89). -/
def decodeFormatZ (opcode arg : BitVec 8) : Except DecodeError Instr :=
  match formatZTable.lookup opcode with
  | some i => if arg = 0 then .ok i else .error .formatZArgNotZero
  | none => .error .unassignedOpcode

/-- The decoding procedure of R89: total on the 65,536 words, and it reads no state. -/
def decode (w : BitVec 16) : Except DecodeError Instr :=
  if opcodeField w = 0x10 then .ok (.keyexp (kselField (argField w)) (klenField (argField w)))
  else if opcodeField w = 0x11 then decodeFormatR (argField w) .rdrk
  else if opcodeField w = 0x26 then decodeFormatR (argField w) .addroundkey
  else decodeFormatZ (opcodeField w) (argField w)

/-- The opcode of each command (R86). -/
def Instr.opcode (i : Instr) : BitVec 8 :=
  match i with
  | .keyexp _ _ => 0x10
  | .rdrk _ => 0x11
  | .subbytes => 0x20
  | .invsubbytes => 0x21
  | .shiftrows => 0x22
  | .invshiftrows => 0x23
  | .mixcolumns => 0x24
  | .invmixcolumns => 0x25
  | .addroundkey _ => 0x26
  | .gfmul => 0x27
  | .ldstate => 0x30
  | .rdstate => 0x31
  | .enc => 0x40
  | .dec => 0x41

/-- The low byte of each command's word (R81). A `klen` above 63 or a `round` above 15 is cut to the low 6 or 4 bits of its field:
DESIGN CHOICE, R90 gives the words of operands that fit and is silent beyond (log entry 21). -/
def Instr.arg (i : Instr) : BitVec 8 :=
  match i with
  | .keyexp ksel klen => ksel ++ BitVec.ofNat 6 klen
  | .rdrk round => (0 : BitVec 4) ++ BitVec.ofNat 4 round
  | .addroundkey round => (0 : BitVec 4) ++ BitVec.ofNat 4 round
  | .subbytes => 0
  | .invsubbytes => 0
  | .shiftrows => 0
  | .invshiftrows => 0
  | .mixcolumns => 0
  | .invmixcolumns => 0
  | .gfmul => 0
  | .ldstate => 0
  | .rdstate => 0
  | .enc => 0
  | .dec => 0

/-- The command word of a well-formed command (R80, R81, R86, R90); of one that is not well formed, see `Instr.arg` (log entry
21). -/
def encode (i : Instr) : BitVec 16 := i.opcode ++ i.arg

/-- The mask of each command's row (R86): format Z 0xFFFF, format R 0xFFF0, format K 0xFF00. -/
def Instr.rowMask (i : Instr) : BitVec 16 :=
  match i with
  | .keyexp _ _ => 0xFF00
  | .rdrk _ => 0xFFF0
  | .addroundkey _ => 0xFFF0
  | .subbytes => 0xFFFF
  | .invsubbytes => 0xFFFF
  | .shiftrows => 0xFFFF
  | .invshiftrows => 0xFFFF
  | .mixcolumns => 0xFFFF
  | .invmixcolumns => 0xFFFF
  | .gfmul => 0xFFFF
  | .ldstate => 0xFFFF
  | .rdstate => 0xFFFF
  | .enc => 0xFFFF
  | .dec => 0xFFFF

/-- The match value of each command's row: `opcode << 8` (R86). -/
def Instr.rowMatch (i : Instr) : BitVec 16 := i.opcode ++ (0 : BitVec 8)

/-- The decoder on an instruction numbered as spec/opcode_table.json numbers it. Every instruction is ONE 16-bit word (R88):
bits from `nbits` up to 16 are zero, and a longer one is none. -/
def decodeTableWord (nbits w : Nat) : Option Instr :=
  if nbits ≤ 16 then (decode (BitVec.ofNat 16 (w % 2 ^ nbits))).toOption else none

end Sys2Proof
end

