-- ==== Sys2Proof/Config.lean ====
section
/-! DEFINITION. What is fixed for the core: the parameters of spec/00_scope.md R9 and R10. The lookup tables, also constants of
the configuration (R12), stand in Machine/Tables.lean. No value of the core is left open, so there is no free value here
(spec/60_exceptions.md R258; spec/93_implementation_defined.md part 2). -/

namespace Sys2Proof

/-- Capacity of the expanded-key memory `W` in words: the largest of 44, 52, 60 (R10, R24, decision D16). -/
def Config.wWords : Nat := 60

/-- Data-in width: 32 bytes (R10, decision D3). -/
def Config.dinBytes : Nat := 32

/-- Data-out width: 16 bytes (R10, decision D4). -/
def Config.doutBytes : Nat := 16

/-- Number of `RCON` entries (R10, R116, decision D32). -/
def Config.rconEntries : Nat := 10

/-- Number of cipher engines sharing one `W` (R10, decision D26). -/
def Config.nEngines : Nat := 1

/-- The default of the host layer's open parameter `WS_SET` (R226, decision D34): the six ASCII whitespace bytes. -/
def Config.wsDefault : List Byte := [0x09, 0x0a, 0x0b, 0x0c, 0x0d, 0x20]

end Sys2Proof
end

