-- ==== Sys2Proof/Machine/State.lean ====
section
/-! DEFINITION. The state of the core (spec/10_state.md R20, R32, R35, R38), the reasons a step can stop (none), and the state
after reset. -/

namespace Sys2Proof.Machine

/-- The error codes of a response by name (spec/60_exceptions.md R241); codes 7 to 15 are reserved and have no name.
`malformedCiphertext` is the host layer's: the core never produces it. -/
inductive ErrCode where
  | ok
  | invalidKeySize
  | invalidKeyMaterial
  | malformedCiphertext
  | noKey
  | roundOutOfRange
  | illegalCommand
deriving DecidableEq, Repr

/-- The hidden stage register `PHASE` (R32). -/
inductive Phase where
  | idle
  | initial
  | main
  | final
deriving DecidableEq, Repr

/-- One row of the input pins as the host drives them (R35): what the core sees in one step. -/
structure Pins where
  /-- Synchronous reset, active high. -/
  rst : Bool
  /-- The host presents a command. -/
  cmdValid : Bool
  /-- The command word. -/
  cmdWord : BitVec 16
  /-- `DIN[0..31]` as the bus carries it: byte `k` at bits [255-8k : 248-8k]. -/
  cmdData : BitVec 256
  /-- The host takes the response. -/
  rspReady : Bool
deriving DecidableEq, Repr

/-- A response: a 4-bit error code and 16 data bytes (R19, R36). -/
structure Response where
  err : ErrCode
  data : BitVec 128
deriving DecidableEq, Repr

/-- The machine stops with a fault: NEVER. The spec's `step` is total and every command word and data value has a defined
response (R258), so this type has no constructor. Safe: nothing raises it. -/
inductive Fault
deriving DecidableEq, Repr

/-- No meaning for an instruction. -/
inductive Refusal where
  /-- Raised by an arm of `exec` whose command has no meaning yet: none is left, so nothing raises it. Safe: a refusal stops the
  run and no claim about a next state can be proved from it. -/
  | notModelled (mnemonic : String)
deriving DecidableEq, Repr

/-- The whole state. `S`, `W`, `ksel`, `kvalid` are the architectural state (R20); `phase`, `rnd`, `ki` the hidden sequencer
(R32); `cmdWord`, `din` what the core sampled at acceptance (R36); `rspValid`, `rspErr`, `rspData` the response outputs (R35).
The remaining two fields are the model's own: `host`, the input pins still to come, one row a step (log entry 2), and
`delivered`, the responses delivered so far, oldest first (R246, R298; log entry 3). -/
structure State where
  /-- The State: the block being transformed, 4 x 4 bytes (R21). -/
  S : Mat4
  /-- The expanded-key memory: 60 words of 4 bytes (R24). -/
  W : Vector Word 60
  /-- `KSEL`: the key size of the current cipher instance (R27). -/
  ksel : KeySize
  /-- `KVALID`: `W` holds a complete ExpandedKey (R28). -/
  kvalid : Bool
  /-- `PHASE`: the stage register of the cipher engine (R32). -/
  phase : Phase
  /-- `RND`: the round counter of the cipher engine, 0 to 14 (R32). -/
  rnd : BitVec 4
  /-- `KI`: the word index of the key schedule, 0 to 59 (R32). -/
  ki : BitVec 6
  /-- The command word sampled at acceptance (R36). -/
  cmdWord : BitVec 16
  /-- The input latch `DIN`, sampled at acceptance (R36, R50). -/
  din : BitVec 256
  /-- `rsp_valid`: the core presents a response (R36). -/
  rspValid : Bool
  /-- `rsp_err` by name (R241). -/
  rspErr : ErrCode
  /-- `rsp_data`: the output latch `DOUT` (R50). -/
  rspData : BitVec 128
  /-- The model's own: the rows of input pins the host will drive. -/
  host : List Pins
  /-- The model's own: the responses delivered so far. -/
  delivered : List Response
deriving DecidableEq, Repr

/-- The state right after reset (R38, R280): `S`, `W` zero, `KSEL = 0b00`, `KVALID = 0`, the sequencer idle, no response. The
sampled word and data start at zero, which the spec does not state (DESIGN CHOICE, log entry 4). -/
def State.reset : State where
  S := Mat4.zero
  W := Vector.replicate 60 Word.zero
  ksel := .k128
  kvalid := false
  phase := .idle
  rnd := 0
  ki := 0
  cmdWord := 0
  din := 0
  rspValid := false
  rspErr := .ok
  rspData := 0
  host := []
  delivered := []

end Sys2Proof.Machine
end

