-- ==== Sys2Proof/Machine/Operands.lean ====
section
/-! DEFINITION. Every operand form of the commands: the bytes of DIN and DOUT on their buses, the cells of the State, blocks in
column-major order, key words, and the numbers Nk and Nr of a key size (spec/20_memory.md R52, R53; spec/44_cipher_engine.md
R190; spec/10_state.md R27). -/

namespace Sys2Proof

/-- `Nk`, the key length in words: 4, 6, 8 (R27). -/
def KeySize.nk (k : KeySize) : Nat :=
  match k with
  | .k128 => 4
  | .k192 => 6
  | .k256 => 8

/-- `Nr`, the number of rounds: 10, 12, 14 (R27). -/
def KeySize.nr (k : KeySize) : Nat :=
  match k with
  | .k128 => 10
  | .k192 => 12
  | .k256 => 14

/-- The number of words of the ExpandedKey, `4*(Nr+1)` (R27). -/
def KeySize.words (k : KeySize) : Nat := 4 * (k.nr + 1)

/-- The 2-bit code of a key size, the contents of the register `KSEL` (R27). -/
def KeySize.code (k : KeySize) : BitVec 2 :=
  match k with
  | .k128 => 0b00
  | .k192 => 0b01
  | .k256 => 0b10

/-- The key size a `ksel` field requests; 0b11 requests none of the three (R84). -/
def KeySize.ofCode (ksel : BitVec 2) : Option KeySize :=
  if ksel = 0b00 then some .k128
  else if ksel = 0b01 then some .k192
  else if ksel = 0b10 then some .k256
  else none

/-- Column `c` of the State: the four bytes from row 0 down to row 3 (R19). -/
def Mat4.col (m : Mat4) (c : Fin 4) : Word :=
  match c with
  | 0 => m.c0
  | 1 => m.c1
  | 2 => m.c2
  | 3 => m.c3

/-- `S[r][c]`, the State byte at row `r`, column `c` (R16). -/
def Mat4.get (m : Mat4) (r c : Fin 4) : Byte := (m.col c).byte r

/-- The State whose byte at row `r`, column `c` is `f r c`: all 16 bytes written at once (R16). -/
def Mat4.ofFn (f : Fin 4 → Fin 4 → Byte) : Mat4 :=
  ⟨Word.ofFn fun r => f r 0, Word.ofFn fun r => f r 1, Word.ofFn fun r => f r 2, Word.ofFn fun r => f r 3⟩

/-- The State of a block `B`: `S[r][c]` is block byte `r + 4*c` (R190). -/
def Mat4.ofBlock (b : Nat → Byte) : Mat4 := Mat4.ofFn fun r c => b (r.val + 4 * c.val)

/-- Block byte `k` of a State, `S[k mod 4][k div 4]` (R190). -/
def Mat4.blockByte (m : Mat4) (k : Nat) : Byte := m.get (Fin.ofNat 4 (k % 4)) (Fin.ofNat 4 (k / 4))

/-- The 16 bytes of a State in column-major order (R190). -/
def Mat4.block (m : Mat4) : List Byte := (List.range 16).map m.blockByte

/-- `DIN[k]`: byte `k` of the data presented with a command is `cmd_data[255-8k : 248-8k]` (R53). -/
def dinByte (d : BitVec 256) (k : Nat) : Byte := d.extractLsb' (248 - 8 * k) 8

/-- `DOUT[k]`: byte `k` of a response's data is `rsp_data[127-8k : 120-8k]` (R53). -/
def doutByte (d : BitVec 128) (k : Nat) : Byte := d.extractLsb' (120 - 8 * k) 8

/-- `n` bytes on a bus, byte 0 the most significant (R53). -/
def packBytes (f : Nat → Byte) : (n : Nat) → BitVec (8 * n)
  | 0 => 0
  | n + 1 => packBytes f n ++ f n

/-- The data of a response: the given bytes, padded with zero bytes to 16 (R17). -/
def packDout (bytes : List Byte) : BitVec 128 := packBytes (fun k => bytes.getD k 0) 16

/-- The data of a command: the given bytes, padded with zero bytes to 32 (R90). Of a listing line with more than 32 data bytes
only the first 32 are presented: DESIGN CHOICE, R90 does not say what such a line presents (log entry 19). -/
def packDin (bytes : List Byte) : BitVec 256 := packBytes (fun k => bytes.getD k 0) 32

/-- Word `i` of the key in `DIN`: key bytes `4i` to `4i+3` in that order (R52 mapping 1). -/
def dinKeyWord (d : BitVec 256) (i : Nat) : Word :=
  ⟨dinByte d (4 * i), dinByte d (4 * i + 1), dinByte d (4 * i + 2), dinByte d (4 * i + 3)⟩

/-- The State of the block in `DIN[0..15]` (R191). -/
def dinBlock (d : BitVec 256) : Mat4 := Mat4.ofBlock (dinByte d)

/-- The bytes of a word in order (R14). -/
def Word.bytes (w : Word) : List Byte := [w.b0, w.b1, w.b2, w.b3]

end Sys2Proof
end

