-- ==== Sys2Proof/Machine/Ops.lean ====
section
/-! DEFINITION. The named operations over the state: reading and writing `S` and `W`, ending a command well (`respond`) or
with an error (`raise`, this core's only exception), and the port: sampling a command, delivering a response, reset, the
output pins (spec/00_scope.md R16, R17; spec/10_state.md R35 to R38; spec/60_exceptions.md R240, R249). -/

namespace Sys2Proof.Machine

/-- The 4-bit code of an error (R241). -/
def ErrCode.code (e : ErrCode) : BitVec 4 :=
  match e with
  | .ok => 0
  | .invalidKeySize => 1
  | .invalidKeyMaterial => 2
  | .malformedCiphertext => 3
  | .noKey => 4
  | .roundOutOfRange => 5
  | .illegalCommand => 6

/-- `S <- m`: all 16 bytes of the State are written (R16). -/
def State.setS (s : State) (m : Mat4) : State := { s with S := m }

/-- `respond(bytes)`: the command ends well; the response has error code 0 and the given bytes, padded with zero bytes to 16
(R17). -/
def State.respond (s : State) (bytes : List Byte) : State :=
  { s with rspValid := true, rspErr := .ok, rspData := packDout bytes }

/-- `raise e`: taking an exception. The command ends with a failure: nothing of `S`, `W`, `KSEL`, `KVALID` is changed, the
response has the code of `e` and 16 zero data bytes (R17, R240, R249). Nothing is saved and there is no handler; the return is
the delivery of the response, `State.deliver` (R251). -/
def State.raise (s : State) (e : ErrCode) : State :=
  { s with rspValid := true, rspErr := e, rspData := 0 }

/-- `W[i]` (R16). No command forms an index of 60 or more, so the default is never read (R54; log entry 11). -/
def State.word (s : State) (i : Nat) : Word := s.W[i]?.getD Word.zero

/-- The round key of a round as a State: word `4*round + c` is column `c`, its byte `r` in row `r` (R25, R52 mapping 3). -/
def State.roundKey (s : State) (round : Nat) : Mat4 :=
  ⟨s.word (4 * round), s.word (4 * round + 1), s.word (4 * round + 2), s.word (4 * round + 3)⟩

/-- The bytes of a round key in order: `W[4*round] ++ W[4*round+1] ++ W[4*round+2] ++ W[4*round+3]` (R152). -/
def State.roundKeyBytes (s : State) (round : Nat) : List Byte :=
  (s.word (4 * round)).bytes ++ (s.word (4 * round + 1)).bytes ++ (s.word (4 * round + 2)).bytes ++
    (s.word (4 * round + 3)).bytes

/-- A cipher instance is loaded: all of `W`, then `KSEL` and `KVALID <- 1` (R149). -/
def State.loadKey (s : State) (k : KeySize) (w : Vector Word 60) : State :=
  { s with W := w, ksel := k, kvalid := true }

/-- The CipherKey, no register of its own: the bytes of `W[0]` to `W[Nk-1]` (R29). -/
def State.cipherKey (s : State) : List Byte := (List.range s.ksel.nk).flatMap fun i => (s.word i).bytes

/-- A command's execution is under way: the hidden sequencer is not idle (R32). Never so between two commands. `PHASE` and `KI` say
so, and `RND` off zero beside `PHASE` IDLE and `KI` 0 counts as idle: DESIGN CHOICE, the spec has no such state (log entry 8). -/
def State.inFlight (s : State) : Bool := s.phase != .idle || s.ki != 0

/-- The output pin `busy`: 1 from the acceptance of a command until its response is delivered (R35; log entry 13). -/
def State.busy (s : State) : Bool := s.rspValid || s.inFlight

/-- The output pin `cmd_ready`: the core is idle and takes the command presented (R35, R36; log entry 13). -/
def State.cmdReady (s : State) : Bool := !s.busy

/-- The output pin `kvalid` shows `KVALID` (R37). -/
def State.kvalidPin (s : State) : Bool := s.kvalid

/-- The output pins `ksel` show `KSEL` (R37). -/
def State.kselPins (s : State) : BitVec 2 := s.ksel.code

/-- The output pins `rsp_err` (R35, R241). -/
def State.rspErrPins (s : State) : BitVec 4 := s.rspErr.code

/-- The response now presented (R36). -/
def State.response (s : State) : Response := ⟨s.rspErr, s.rspData⟩

/-- The input pins when the host drives nothing: no reset, no command, no taking of a response. -/
def Pins.quiet : Pins := ⟨false, false, 0, 0, false⟩

/-- The input pins with a command presented and nothing else (R35). -/
def Pins.command (word : BitVec 16) (data : BitVec 256) : Pins := ⟨false, true, word, data, false⟩

/-- The input pins with the response taken and nothing else (R35). -/
def Pins.take : Pins := ⟨false, false, 0, 0, true⟩

/-- The row of input pins of the coming step; past the end of the host's rows it drives nothing (log entry 2). -/
def State.pins (s : State) : Pins := s.host.headD Pins.quiet

/-- The step uses up one row of input pins (log entry 2). -/
def State.nextInput (s : State) : State := { s with host := s.host.tail }

/-- The host will drive these rows next. -/
def State.withHost (s : State) (rows : List Pins) : State := { s with host := rows }

/-- Acceptance: the core samples `cmd_word` and `cmd_data` and never looks at them again (R36). -/
def State.sample (s : State) (p : Pins) : State := { s with cmdWord := p.cmdWord, din := p.cmdData }

/-- Delivery: the host has taken the response and the core is idle again (R36, R251). The core then holds no trace of an error:
`rsp_err` goes to 0 and no copy of the command word stays (R246). That the word of a command that succeeded goes too, and that
`rsp_data` and `DIN` keep their values, is the model's (log entry 5). -/
def State.deliver (s : State) : State :=
  { s with rspValid := false, rspErr := .ok, cmdWord := 0, delivered := s.delivered ++ [s.response] }

/-- Reset: every piece of the core's state takes its reset value (R38, R280). What lies outside the core, the host's coming
pins and the responses it has already taken, stays (log entry 16); a response presented in this row is dropped even if it is
taken in it (log entry 20). -/
def State.applyReset (s : State) : State := { State.reset with host := s.host, delivered := s.delivered }

/-- What happens at the port in one step. -/
inductive PortEvent where
  /-- `rst = 1`: the core takes the reset state and accepts nothing (R280, R281). -/
  | reset
  /-- A command is under way: the sequencer advances (R32, R203). -/
  | advance
  /-- `rsp_valid` and `rsp_ready` are both 1: the response is delivered (R36). -/
  | deliver
  /-- Nothing to do: a response waits for `rsp_ready`, or the idle core waits for `cmd_valid` (R36, R257). -/
  | wait
  /-- `cmd_valid` and `cmd_ready` are both 1: a command is accepted (R36). -/
  | accept
deriving DecidableEq, Repr

/-- Which event the pins and the state give (R36, R280, R295): reset first, then the command in the core, then a new one. That
reset also comes before a delivery, so that a response presented and taken in the very row with `rst = 1` is not delivered, is a
DESIGN CHOICE: R36 delivers in that cycle, R280 resets in it, and R281 speaks only of `rst` before delivery (log entry 20). That a
command under way goes on before a response presented beside it, which is so in no run, is a DESIGN CHOICE too (log entry 8). -/
def State.portEvent (s : State) (p : Pins) : PortEvent :=
  if p.rst then .reset
  else if s.inFlight then .advance
  else if s.rspValid then (if p.rspReady then .deliver else .wait)
  else if p.cmdValid then .accept
  else .wait

/-- The core idle and the host's next row presenting the word `w` with zero data: what the very next step accepts
(log entry 15). It clears what keeps the core from accepting, `PHASE`, `KI` and `rsp_valid`, and leaves `RND`, which does not:
DESIGN CHOICE (log entry 8). -/
def State.presentWord (s : State) (w : BitVec 16) : State :=
  { s with phase := .idle, ki := 0, rspValid := false, host := Pins.command w 0 :: s.host }

end Sys2Proof.Machine
end

