-- ==== Sys2Proof/Machine/Flags.lean ====
section
/-! DEFINITION. The checks each command makes before it writes anything, each giving the error it raises, in the order of
spec/60_exceptions.md R248. `KVALID` is the core's only flag (spec/10_state.md R28); there is no condition code. -/

namespace Sys2Proof.Machine

/-- `ENC`, `DEC`: `NoKey` while `KVALID = 0` (R196, R200, R248 (4)). -/
def State.keyError (s : State) : Option ErrCode :=
  if s.kvalid then none else some .noKey

/-- `ADDROUNDKEY`, `RDRK`: `NoKey`, then `RoundOutOfRange` when `round > Nr` (R152, R178, R248 (3)). -/
def State.roundError (s : State) (round : Nat) : Option ErrCode :=
  if !s.kvalid then some .noKey
  else if round > s.ksel.nr then some .roundOutOfRange
  else none

/-- `KEYEXP`: `InvalidKeySize`, then `InvalidKeyMaterial` when `klen != 4*Nk`; else the key size requested (R149, R248 (2)). It
reads no state. -/
def keyexpCheck (ksel : BitVec 2) (klen : Nat) : Except ErrCode KeySize :=
  match KeySize.ofCode ksel with
  | none => .error .invalidKeySize
  | some k => if klen = 4 * k.nk then .ok k else .error .invalidKeyMaterial

end Sys2Proof.Machine
end

