-- ==== Sys2Proof/Machine/Galois.lean ====
section
/-! DEFINITION. The GF(2^8) multiplier and the command GFMUL (spec/41_galois_multiply.md). -/

namespace Sys2Proof

/-- The carry-less product of `a` with the low `n` bits of `b`: the first loop of R130, 15 bits. -/
def clmul (a b : Byte) : Nat → BitVec 15
  | 0 => 0
  | n + 1 => if b.getLsbD n then clmul a b n ^^^ (a.setWidth 15 <<< n) else clmul a b n

/-- Reduction modulo 0x11B of bits `n + 7` down to 8: the second loop of R130. -/
def reduceFrom : Nat → BitVec 15 → BitVec 15
  | 0, p => p
  | n + 1, p => reduceFrom n (if p.getLsbD (n + 8) then p ^^^ (0x11B <<< n) else p)

/-- `GMUL(a, b)`: the product in GF(2^8) as exact arithmetic (R130). -/
def gmul (a b : Byte) : Byte := (reduceFrom 7 (clmul a b 8)).setWidth 8

/-- `n` iterations of the multiplier the source prescribes, from the running `p`, `a`, `b` (R131). -/
def gmulLoop : Nat → Byte → Byte → Byte → Byte
  | 0, p, _, _ => p
  | n + 1, p, a, b =>
    gmulLoop n (if b.getLsbD 0 then p ^^^ a else p) (if a.getLsbD 7 then (a <<< 1) ^^^ 0x1B else a <<< 1) (b >>> 1)

/-- `GMUL_iter(a, b)`: eight iterations, no early exit (R131). -/
def gmulIter (a b : Byte) : Byte := gmulLoop 8 0 a b

end Sys2Proof

namespace Sys2Proof.Machine

/-- `GFMUL`: `DOUT[0] = GMUL(DIN[0], DIN[1])`, the other 15 bytes zero; no state is written (R134). -/
def execGfmul (s : State) : Host.Outcome State Fault Refusal :=
  .next (s.respond [gmul (dinByte s.din 0) (dinByte s.din 1)])

end Sys2Proof.Machine
end

