-- ==== Sys2Proof/Machine/Transforms.lean ====
section
/-! DEFINITION. The State transforms and their commands (spec/43_state_transforms.md). Each transform reads the whole old State
and gives the whole new one (R16). -/

namespace Sys2Proof

/-- `S[r][c] <- SBOX[old[r][c]]` (R160). -/
def subBytes (m : Mat4) : Mat4 := Mat4.ofFn fun r c => SBOX (m.get r c)

/-- `S[r][c] <- INVSBOX[old[r][c]]` (R163). -/
def invSubBytes (m : Mat4) : Mat4 := Mat4.ofFn fun r c => INVSBOX (m.get r c)

/-- `S[r][c] <- old[r][(c + r) mod 4]` (R166); addition of `Fin 4` is modulo 4. -/
def shiftRows (m : Mat4) : Mat4 := Mat4.ofFn fun r c => m.get r (c + r)

/-- `S[r][c] <- old[r][(c - r) mod 4]`, the non-negative remainder (R169); subtraction of `Fin 4` is modulo 4. -/
def invShiftRows (m : Mat4) : Mat4 := Mat4.ofFn fun r c => m.get r (c - r)

/-- The coefficients of output row 0 of the forward mix: `M = [2, 3, 1, 1]` (R172). -/
def mixCoeff (j : Fin 4) : Byte :=
  match j with
  | 0 => 2
  | 1 => 3
  | 2 => 1
  | 3 => 1

/-- The coefficients of output row 0 of the inverse mix: `N = [14, 11, 13, 9]` (R175). -/
def invMixCoeff (j : Fin 4) : Byte :=
  match j with
  | 0 => 14
  | 1 => 11
  | 2 => 13
  | 3 => 9

/-- `S[r][c] <- XOR over k in 0..3 of GMUL(coeff[(k - r) mod 4], old[k][c])`: the coefficient row is rotated right by one place
per output row (R172, R173, R175). -/
def mixWith (coeff : Fin 4 → Byte) (m : Mat4) : Mat4 :=
  Mat4.ofFn fun r c =>
    gmul (coeff (0 - r)) (m.get 0 c) ^^^ gmul (coeff (1 - r)) (m.get 1 c) ^^^
      gmul (coeff (2 - r)) (m.get 2 c) ^^^ gmul (coeff (3 - r)) (m.get 3 c)

/-- MixColumns (R172). -/
def mixColumns (m : Mat4) : Mat4 := mixWith mixCoeff m

/-- InvMixColumns (R175). -/
def invMixColumns (m : Mat4) : Mat4 := mixWith invMixCoeff m

/-- `S[r][c] <- old[r][c] ^ W[4*round + c][r]`, the round key given as the State of its four words (R178). -/
def addRoundKey (key m : Mat4) : Mat4 := Mat4.ofFn fun r c => m.get r c ^^^ key.get r c

end Sys2Proof

namespace Sys2Proof.Machine

/-- `SUBBYTES` (R160). -/
def execSubbytes (s : State) : Host.Outcome State Fault Refusal :=
  .next ((s.setS (subBytes s.S)).respond [])

/-- `INVSUBBYTES` (R163). -/
def execInvsubbytes (s : State) : Host.Outcome State Fault Refusal :=
  .next ((s.setS (invSubBytes s.S)).respond [])

/-- `SHIFTROWS` (R166). -/
def execShiftrows (s : State) : Host.Outcome State Fault Refusal :=
  .next ((s.setS (shiftRows s.S)).respond [])

/-- `INVSHIFTROWS` (R169). -/
def execInvshiftrows (s : State) : Host.Outcome State Fault Refusal :=
  .next ((s.setS (invShiftRows s.S)).respond [])

/-- `MIXCOLUMNS` (R172). -/
def execMixcolumns (s : State) : Host.Outcome State Fault Refusal :=
  .next ((s.setS (mixColumns s.S)).respond [])

/-- `INVMIXCOLUMNS` (R175). -/
def execInvmixcolumns (s : State) : Host.Outcome State Fault Refusal :=
  .next ((s.setS (invMixColumns s.S)).respond [])

/-- `ADDROUNDKEY`: XOR the round key of one round into the State (R178). -/
def execAddroundkey (round : Nat) (s : State) : Host.Outcome State Fault Refusal :=
  match s.roundError round with
  | some e => .next (s.raise e)
  | none => .next ((s.setS (addRoundKey (s.roundKey round) s.S)).respond [])

end Sys2Proof.Machine
end

