-- ==== Sys2Proof/Machine/Engine.lean ====
section
/-! DEFINITION. The cipher engine: blocks in and out of the State, the forward and the inverse pipeline (spec/44_cipher_engine.md).
-/

namespace Sys2Proof

/-- One main stage of encryption: SubBytes, ShiftRows, MixColumns, AddRoundKey (R195, R196). -/
def mainStage (key m : Mat4) : Mat4 := addRoundKey key (mixColumns (shiftRows (subBytes m)))

/-- The final stage of encryption: no MixColumns (R195, R196). -/
def finalStage (key m : Mat4) : Mat4 := addRoundKey key (shiftRows (subBytes m))

/-- The main stages of rounds 1 to `n`, in increasing order (R196). -/
def mainStages (key : Nat → Mat4) : Nat → Mat4 → Mat4
  | 0, m => m
  | n + 1, m => mainStage (key (n + 1)) (mainStages key n m)

/-- The forward pipeline on one block: `key r` is the round key of round `r` (R196). -/
def encryptBlock (key : Nat → Mat4) (nr : Nat) (block : Mat4) : Mat4 :=
  finalStage (key nr) (mainStages key (nr - 1) (addRoundKey (key 0) block))

/-- The final stage reversed: AddRoundKey, InvShiftRows, InvSubBytes (R200). -/
def invFinalStage (key m : Mat4) : Mat4 := invSubBytes (invShiftRows (addRoundKey key m))

/-- A main stage reversed: AddRoundKey, InvMixColumns, InvShiftRows, InvSubBytes (R200). -/
def invMainStage (key m : Mat4) : Mat4 := invSubBytes (invShiftRows (invMixColumns (addRoundKey key m)))

/-- The reversed main stages of rounds `n` down to 1 (R200). -/
def invMainStages (key : Nat → Mat4) : Nat → Mat4 → Mat4
  | 0, m => m
  | n + 1, m => invMainStages key n (invMainStage (key (n + 1)) m)

/-- The inverse pipeline on one block (R200). -/
def decryptBlock (key : Nat → Mat4) (nr : Nat) (block : Mat4) : Mat4 :=
  addRoundKey (key 0) (invMainStages key (nr - 1) (invFinalStage (key nr) block))

end Sys2Proof

namespace Sys2Proof.Machine

/-- `LDSTATE`: load the block in `DIN[0..15]` into the State (R191). -/
def execLdstate (s : State) : Host.Outcome State Fault Refusal :=
  .next ((s.setS (dinBlock s.din)).respond [])

/-- `RDSTATE`: the State out as a block; no state is written (R193). -/
def execRdstate (s : State) : Host.Outcome State Fault Refusal :=
  .next (s.respond s.S.block)

/-- The end of a pipeline: the result block stays in `S` and is the response (R196, R197, R200). -/
def State.finishBlock (s : State) (result : Mat4) : State := (s.setS result).respond result.block

/-- `ENC`: encrypt the block in `DIN[0..15]` (R196). -/
def execEnc (s : State) : Host.Outcome State Fault Refusal :=
  match s.keyError with
  | some e => .next (s.raise e)
  | none => .next (s.finishBlock (encryptBlock s.roundKey s.ksel.nr (dinBlock s.din)))

/-- `DEC`: decrypt the block in `DIN[0..15]` (R200). -/
def execDec (s : State) : Host.Outcome State Fault Refusal :=
  match s.keyError with
  | some e => .next (s.raise e)
  | none => .next (s.finishBlock (decryptBlock s.roundKey s.ksel.nr (dinBlock s.din)))

end Sys2Proof.Machine
end

