-- ==== Sys2Proof/Machine/KeySchedule.lean ====
section
/-! DEFINITION. The key schedule and the commands KEYEXP and RDRK (spec/42_key_schedule.md). -/

namespace Sys2Proof

/-- `RotWord((b0, b1, b2, b3)) = (b1, b2, b3, b0)` (R141). -/
def rotWord (w : Word) : Word := ⟨w.b1, w.b2, w.b3, w.b0⟩

/-- `SubWord`: `SBOX` on each byte (R143). -/
def subWord (w : Word) : Word := ⟨SBOX w.b0, SBOX w.b1, SBOX w.b2, SBOX w.b3⟩

/-- The round-constant word of boundary `k`: `(RCON[k], 0, 0, 0)` (R144). -/
def rconWord (k : Nat) : Word := ⟨RCON k, 0, 0, 0⟩

/-- `temp` of the second loop of R146 at word index `i`, from the previous word. -/
def scheduleTemp (nk i : Nat) (previous : Word) : Word :=
  if i % nk = 0 then (subWord (rotWord previous)).xor (rconWord (i / nk - 1))
  else if nk > 6 ∧ i % nk = 4 then subWord previous
  else previous

/-- Word `i` of the ExpandedKey from the words before it: a key word below `Nk`, `E[i-Nk] ^ temp` from `Nk` on (R146). -/
def scheduleWord (nk : Nat) (key : Nat → Word) (e : List Word) (i : Nat) : Word :=
  if i < nk then key i
  else (e.getD (i - nk) Word.zero).xor (scheduleTemp nk i (e.getD (i - 1) Word.zero))

/-- The first `n` words of the ExpandedKey, produced in increasing order (R146, R147 (e)). -/
def expandWords (nk : Nat) (key : Nat → Word) : Nat → List Word
  | 0 => []
  | n + 1 => expandWords nk key n ++ [scheduleWord nk key (expandWords nk key n) n]

/-- `Expand(key, Nk, Nr)`: the `4*(Nr+1)` words of the ExpandedKey; `key i` is word `i` of the key (R146). -/
def expand (k : KeySize) (key : Nat → Word) : List Word := expandWords k.nk key k.words

/-- The contents `KEYEXP` gives `W`: the ExpandedKey, then zero words up to word 59 (R149, decision D16). Irreducible, so that no
unifier evaluates 60 words: proofs cite its laws in Laws/KeySchedule.lean. -/
@[irreducible] def keyMemory (k : KeySize) (key : Nat → Word) : Vector Word 60 :=
  Vector.ofFn fun i => (expand k key).getD i.val Word.zero

end Sys2Proof

namespace Sys2Proof.Machine

/-- `KEYEXP`: check the request, expand the key in `DIN` into `W`, record its size, raise `KVALID` (R149). -/
def execKeyexp (ksel : BitVec 2) (klen : Nat) (s : State) : Host.Outcome State Fault Refusal :=
  match keyexpCheck ksel klen with
  | .error e => .next (s.raise e)
  | .ok k => .next ((s.loadKey k (keyMemory k (dinKeyWord s.din))).respond [])

/-- `RDRK`: the 16 bytes of a round key; no state is written (R152). -/
def execRdrk (round : Nat) (s : State) : Host.Outcome State Fault Refusal :=
  match s.roundError round with
  | some e => .next (s.raise e)
  | none => .next (s.respond (s.roundKeyBytes round))

end Sys2Proof.Machine
end

