-- ==== Sys2Proof/Machine/Dispatch.lean ====
section
/-! DEFINITION. The meaning of every command: one arm per constructor of Instr (spec/30_encoding.md R86). -/

namespace Sys2Proof.Machine

def exec (i : Instr) (s : State) : Host.Outcome State Fault Refusal :=
  match i with
  | .keyexp ksel klen => Sys2Proof.Machine.execKeyexp ksel klen s
  | .rdrk round => Sys2Proof.Machine.execRdrk round s
  | .subbytes => Sys2Proof.Machine.execSubbytes s
  | .invsubbytes => Sys2Proof.Machine.execInvsubbytes s
  | .shiftrows => Sys2Proof.Machine.execShiftrows s
  | .invshiftrows => Sys2Proof.Machine.execInvshiftrows s
  | .mixcolumns => Sys2Proof.Machine.execMixcolumns s
  | .invmixcolumns => Sys2Proof.Machine.execInvmixcolumns s
  | .addroundkey round => Sys2Proof.Machine.execAddroundkey round s
  | .gfmul => Sys2Proof.Machine.execGfmul s
  | .ldstate => Sys2Proof.Machine.execLdstate s
  | .rdstate => Sys2Proof.Machine.execRdstate s
  | .enc => Sys2Proof.Machine.execEnc s
  | .dec => Sys2Proof.Machine.execDec s

end Sys2Proof.Machine
end

