-- ==== Sys2Proof/Machine/Command.lean ====
section
/-! DEFINITION. One command from acceptance to response (spec/00_scope.md R11; spec/30_encoding.md R89), the assembler's commands
and pseudo-instructions (R90, R91), and sequences of commands. -/

namespace Sys2Proof.Machine

/-- A command with its data: the core samples both, decodes the word and runs the command; a word that decodes to none is
answered with `IllegalCommand` (R11, R36, R89, R245). -/
def perform (word : BitVec 16) (data : BitVec 256) (s : State) : Host.Outcome State Fault Refusal :=
  match decode word with
  | .ok i => exec i (s.sample (Pins.command word data))
  | .error _ => .next ((s.sample (Pins.command word data)).raise .illegalCommand)

/-- A line of a listing (R90): a command with the bytes of its data operand, or a raw word. -/
inductive AsmLine where
  | command (i : Instr) (data : List Byte)
  /-- `.word 0xNNNN`, for illegal encodings; `DIN` all zero. -/
  | word (w : BitVec 16)
deriving DecidableEq, Repr

/-- The command word of a line (R90); of a line whose operand does not fit its field, see `Instr.arg` (log entry 21). -/
def AsmLine.cmdWord (l : AsmLine) : BitVec 16 :=
  match l with
  | .command i _ => encode i
  | .word w => w

/-- The data of a line: its bytes from `DIN[0]` on, the rest zero (R90); past 32 bytes, see `packDin` (log entry 19). Up to 32, the
bytes of a line that has more than its command uses are presented as given: DESIGN CHOICE, R90 has no such line, and R85, which
has the assembler set unused bytes to zero, does not say what it does with bytes a line gives (log entry 22). -/
def AsmLine.cmdData (l : AsmLine) : BitVec 256 :=
  match l with
  | .command _ data => packDin data
  | .word _ => 0

/-- The nine pseudo-instructions (R91). -/
inductive Pseudo where
  | keyexp128 (key : List Byte)
  | keyexp192 (key : List Byte)
  | keyexp256 (key : List Byte)
  | initstage
  | mainstage (r : Nat)
  | finalstage (r : Nat)
  | invfinalstage (r : Nat)
  | invmainstage (r : Nat)
  | invinitstage
deriving DecidableEq, Repr

/-- The expansion of each pseudo-instruction (R91). -/
def Pseudo.expand (p : Pseudo) : List AsmLine :=
  match p with
  | .keyexp128 key => [.command (.keyexp 0 16) key]
  | .keyexp192 key => [.command (.keyexp 1 24) key]
  | .keyexp256 key => [.command (.keyexp 2 32) key]
  | .initstage => [.command (.addroundkey 0) []]
  | .mainstage r => [.command .subbytes [], .command .shiftrows [], .command .mixcolumns [], .command (.addroundkey r) []]
  | .finalstage r => [.command .subbytes [], .command .shiftrows [], .command (.addroundkey r) []]
  | .invfinalstage r => [.command (.addroundkey r) [], .command .invshiftrows [], .command .invsubbytes []]
  | .invmainstage r =>
    [.command (.addroundkey r) [], .command .invmixcolumns [], .command .invshiftrows [], .command .invsubbytes []]
  | .invinitstage => [.command (.addroundkey 0) []]

/-- What a line presents at the port: a command word and its data. -/
def AsmLine.presented (l : AsmLine) : BitVec 16 × BitVec 256 := (l.cmdWord, l.cmdData)

/-- Commands performed one after another (R58); each response is dropped when the next is given. -/
def performAll : List (BitVec 16 × BitVec 256) → State → Host.Outcome State Fault Refusal
  | [], s => .next s
  | c :: cs, s =>
    match perform c.1 c.2 s with
    | .next t => performAll cs t
    | .fault f => .fault f
    | .refused r => .refused r

/-- `MAINSTAGE 1` to `MAINSTAGE n`, in increasing order. -/
def mainStageLines : Nat → List AsmLine
  | 0 => []
  | n + 1 => mainStageLines n ++ (Pseudo.mainstage (n + 1)).expand

/-- `INVMAINSTAGE n` down to `INVMAINSTAGE 1`. -/
def invMainStageLines : Nat → List AsmLine
  | 0 => []
  | n + 1 => (Pseudo.invmainstage (n + 1)).expand ++ invMainStageLines n

/-- `ENC` as a sequence of single transforms, without its `RDSTATE` (R198). -/
def encLines (nr : Nat) (block : List Byte) : List AsmLine :=
  [.command .ldstate block] ++ Pseudo.initstage.expand ++ mainStageLines (nr - 1) ++ (Pseudo.finalstage nr).expand

/-- `DEC` as a sequence of single transforms, without its `RDSTATE` (R202). -/
def decLines (nr : Nat) (block : List Byte) : List AsmLine :=
  [.command .ldstate block] ++ (Pseudo.invfinalstage nr).expand ++ invMainStageLines (nr - 1) ++ Pseudo.invinitstage.expand

end Sys2Proof.Machine
end

