-- ==== Sys2Proof/Machine/Sequencer.lean ====
section
/-! DEFINITION. The hidden sequencer (spec/10_state.md R32; spec/44_cipher_engine.md R203): the same commands in stages. `exec`
runs each command whole, as R11 asks, and leaves the sequencer idle; a state in which a command is under way is carried on from
here, one stage a step, until the sequencer is idle again with the response given (log entries 6, 7, 8). -/

namespace Sys2Proof.Machine

/-- The command in the core, sampled at acceptance, is `DEC`; the cipher engine is otherwise encrypting (log entry 8). -/
def State.decrypting (s : State) : Bool :=
  match decode s.cmdWord with
  | .ok .dec => true
  | _ => false

/-- The key size the `KEYEXP` in the core requests, if its checks pass (R149); none for a word that is no such `KEYEXP`, whose case
with `KI` off zero is log entry 8. -/
def State.latchedKeySize (s : State) : Option KeySize :=
  match decode s.cmdWord with
  | .ok (.keyexp ksel klen) => (keyexpCheck ksel klen).toOption
  | _ => none

/-- `ENC` or `DEC` starts: the block is loaded and the engine enters INITIAL. `RND` is the number of the round key the stage
uses: 0 first for `ENC`, `Nr` first for `DEC` (R203; log entry 6). -/
def State.startCipher (s : State) : State :=
  { s with S := dinBlock s.din, phase := .initial, rnd := if s.decrypting then BitVec.ofNat 4 s.ksel.nr else 0 }

/-- One stage of the cipher engine on the State (R203): INITIAL, MAIN, FINAL, and back to IDLE with the response. That a stage
takes round key `RND` and goes on where `RND` lies outside R203's count or `KVALID` is 0, which is so in no run, is a
DESIGN CHOICE (log entry 8). -/
def State.cipherStage (s : State) : State :=
  match s.phase with
  | .idle => s
  | .initial =>
    if s.decrypting then
      { s with S := invFinalStage (s.roundKey s.rnd.toNat) s.S, phase := .main, rnd := s.rnd - 1 }
    else
      { s with S := addRoundKey (s.roundKey s.rnd.toNat) s.S, phase := .main, rnd := s.rnd + 1 }
  | .main =>
    if s.decrypting then
      { s with
        S := invMainStage (s.roundKey s.rnd.toNat) s.S
        phase := if s.rnd.toNat = 1 then .final else .main
        rnd := s.rnd - 1 }
    else
      { s with
        S := mainStage (s.roundKey s.rnd.toNat) s.S
        phase := if s.rnd.toNat + 1 = s.ksel.nr then .final else .main
        rnd := s.rnd + 1 }
  | .final =>
    let result :=
      if s.decrypting then addRoundKey (s.roundKey s.rnd.toNat) s.S else finalStage (s.roundKey s.rnd.toNat) s.S
    State.finishBlock { s with phase := .idle, rnd := 0 } result

/-- `KEYEXP` starts, its checks passed: the key words are in `W`, the rest zero, and `KI` stands at `Nk` (R146, R147 (e); log
entry 7). -/
def State.startKey (s : State) (k : KeySize) : State :=
  { s with
    W := Vector.ofFn fun i => if i.val < k.nk then dinKeyWord s.din i.val else Word.zero
    ki := BitVec.ofNat 6 k.nk }

/-- Word `KI` of the ExpandedKey is written and `KI` counts upward; after the last word `KSEL` and `KVALID` are written and the
response is given (R146, R147 (e), R149; log entry 7).

DESIGN CHOICE (log entry 8), for `KI` outside `Nk` to `4*(Nr+1)-1`, where it is in no run: at or past `4*(Nr+1)` the word is
written if `W` has it, and `KI` counts on, wraps from 63 to 0 and so goes idle with no response; below `Nk`, `W[0]` stands for the
word `Nk` before. -/
def State.keyStage (s : State) (k : KeySize) : State :=
  let i := s.ki.toNat
  let t := { s with W := s.W.setIfInBounds i ((s.word (i - k.nk)).xor (scheduleTemp k.nk i (s.word (i - 1)))) }
  if i + 1 = k.words then State.respond { t with ksel := k, kvalid := true, ki := 0 } [] else { t with ki := s.ki + 1 }

/-- One step of the command under way. DESIGN CHOICE (log entry 8), for what arises in no run: `KI` off zero with no `KEYEXP` in
the core that passes its checks is cleared, and with `PHASE` and `KI` both off idle the cipher engine goes first. -/
def State.advance (s : State) : State :=
  if s.phase = .idle then
    match s.latchedKeySize with
    | some k => s.keyStage k
    | none => { s with ki := 0 }
  else s.cipherStage

end Sys2Proof.Machine
end

