-- ==== Sys2Proof/Machine/Step.lean ====
section
/-! DEFINITION. One step of the core, and how a command is put where the next step takes it. -/

namespace Sys2Proof.Machine

/-- One step: the coming row of input pins is used up and the port event it gives happens (R11, R36, R280; log entries 1, 2). A
command accepted is run whole and its response presented in the same step. -/
def step (s : State) : Host.Outcome State Fault Refusal :=
  match s.nextInput.portEvent s.pins with
  | .reset => .next s.nextInput.applyReset
  | .advance => .next s.nextInput.advance
  | .deliver => .next s.nextInput.deliver
  | .wait => .next s.nextInput
  | .accept => perform s.pins.cmdWord s.pins.cmdData s.nextInput

/-- The instruction word `w` of `nbits` bits, the bits above zero, presented to the idle core, so that the very next step accepts
and runs it (log entry 15). -/
def State.withFetchWord (s : State) (nbits w : Nat) : State := s.presentWord (BitVec.ofNat 16 (w % 2 ^ nbits))

end Sys2Proof.Machine
end

