-- ==== Sys2Proof/Machine/HostText.lean ====
section
/-! DEFINITION. The host's text layer (spec/45_host_text_layer.md): construction, `encrypt(text)`, `decrypt(hex)`. It is host
software that drives the core one block at a time, not hardware (spec/00_scope.md R7; log entry 14). -/

namespace Sys2Proof.Machine

/-- How a call of the text layer fails. -/
inductive TextError where
  /-- An error of the common numbering: the core's, or the host's own `MalformedCiphertext` (R225, R241). -/
  | code (e : ErrCode)
  /-- The plaintext holds a character above 255, which this layer refuses (R226). -/
  | characterAbove255
  /-- The core is not idle, so it takes no command now (R36). -/
  | coreBusy
deriving DecidableEq, Repr

/-- The host presents one command to the idle core and takes the response: two steps at the port (R229). -/
def send (word : BitVec 16) (data : BitVec 256) (s : State) : Except TextError (State × BitVec 128) :=
  if s.cmdReady then
    match step (s.withHost [Pins.command word data, Pins.take]) with
    | .next t =>
      match step t with
      | .next u => if t.rspErr = .ok then .ok (u, t.rspData) else .error (.code t.rspErr)
      | _ => .error .coreBusy
    | _ => .error .coreBusy
  else .error .coreBusy

/-- The code of a key size in bits (R220). -/
def kselOfBits (bits : Nat) : Option (BitVec 2) :=
  if bits = 128 then some 0b00 else if bits = 192 then some 0b01 else if bits = 256 then some 0b10 else none

/-- `AES(bits, key)` (R220): one `KEYEXP`. A size that is none of the three, or a key too long for `klen`, is reported by the
host itself. -/
def constructText (bits : Nat) (key : List Byte) (s : State) : Except TextError State :=
  match kselOfBits bits with
  | none => .error (.code .invalidKeySize)
  | some ksel =>
    if key.length > 63 then .error (.code .invalidKeyMaterial)
    else (send (encode (.keyexp ksel key.length)) (packDin key) s).map Prod.fst

/-- Right-pad with ASCII space to a multiple of 16 bytes; none is added when the length is one already (R222, R223). -/
def padSpaces (p : List Byte) : List Byte := p ++ List.replicate ((16 - p.length % 16) % 16) 0x20

/-- The first `n` blocks of 16 bytes, in order. -/
def blocksOf : Nat → List Byte → List (List Byte)
  | 0, _ => []
  | n + 1, p => p.take 16 :: blocksOf n (p.drop 16)

/-- The 16 bytes of a response's data, byte 0 first (R53). -/
def doutBytes (d : BitVec 128) : List Byte := (List.range 16).map (doutByte d)

/-- One command per block, in block order; the results are concatenated (R222, R224, R228). -/
def sendBlocks (word : BitVec 16) : List (List Byte) → State → Except TextError (State × List Byte)
  | [], s => .ok (s, [])
  | b :: bs, s =>
    match send word (packDin b) s with
    | .error e => .error e
    | .ok (t, d) => (sendBlocks word bs t).map fun r => (r.1, doutBytes d ++ r.2)

/-- A hex digit of output, 0-9 a-f (R222, R223 (c)). -/
def hexDigit (n : Nat) : Char := if n < 10 then Char.ofNat (48 + n) else Char.ofNat (87 + n)

/-- Two hex digits per byte, the high one first (R222). -/
def hexOf (bytes : List Byte) : List Char :=
  bytes.flatMap fun b => [hexDigit (b.toNat / 16), hexDigit (b.toNat % 16)]

/-- The value of a hex digit of input; both cases are accepted (R225, decision D41). -/
def hexValue (c : Char) : Option Nat :=
  if 48 ≤ c.toNat ∧ c.toNat ≤ 57 then some (c.toNat - 48)
  else if 97 ≤ c.toNat ∧ c.toNat ≤ 102 then some (c.toNat - 87)
  else if 65 ≤ c.toNat ∧ c.toNat ≤ 70 then some (c.toNat - 55)
  else none

/-- The bytes a hex text spells, two digits per byte; none if a character is no hex digit (R224). -/
def bytesOfHex : List Char → Option (List Byte)
  | [] => some []
  | [_] => none
  | a :: b :: rest =>
    match hexValue a, hexValue b, bytesOfHex rest with
    | some x, some y, some bs => some (BitVec.ofNat 8 (16 * x + y) :: bs)
    | _, _, _ => none

/-- A character as one byte (R226). -/
def byteOfChar (c : Char) : Byte := BitVec.ofNat 8 c.toNat

/-- A byte as one character (R226). -/
def charOfByte (b : Byte) : Char := Char.ofNat b.toNat

/-- Remove from the end every byte of the set, until the last one is not in it (R224). -/
def trimEnd (ws : List Byte) (p : List Byte) : List Byte := (p.reverse.dropWhile fun b => ws.contains b).reverse

/-- `encrypt(plaintext) -> hex` (R222). -/
def encryptText (plaintext : List Char) (s : State) : Except TextError (State × List Char) :=
  if plaintext.any fun c => 255 < c.toNat then .error .characterAbove255
  else
    let p := padSpaces (plaintext.map byteOfChar)
    (sendBlocks (encode .enc) (blocksOf (p.length / 16) p) s).map fun r => (r.1, hexOf r.2)

/-- `decrypt(hex) -> plaintext`, `ws` the open parameter `WS_SET` (R224, R225, R226). Both checks come before any `DEC`. -/
def decryptText (ws : List Byte) (hextext : List Char) (s : State) : Except TextError (State × List Char) :=
  if hextext.length % 32 ≠ 0 then .error (.code .malformedCiphertext)
  else
    match bytesOfHex hextext with
    | none => .error (.code .malformedCiphertext)
    | some c => (sendBlocks (encode .dec) (blocksOf (c.length / 16) c) s).map fun r => (r.1, (trimEnd ws r.2).map charOfByte)

end Sys2Proof.Machine
end

