-- ==== Sys2Proof/Safety.lean ====
section
/-! DEFINITION. The terms claims use: the invariants of the state (spec/10_state.md R30, R32; spec/60_exceptions.md R240, R241),
and a run without errors (R246). -/

namespace Sys2Proof

/-- How many bytes of `DIN` a command uses, from byte 0 on (R85); `KEYEXP` uses its `klen` bytes. -/
def Instr.dinUsed (i : Instr) : Nat :=
  match i with
  | .keyexp _ klen => klen
  | .gfmul => 2
  | .ldstate => 16
  | .enc => 16
  | .dec => 16
  | .rdrk _ => 0
  | .subbytes => 0
  | .invsubbytes => 0
  | .shiftrows => 0
  | .invshiftrows => 0
  | .mixcolumns => 0
  | .invmixcolumns => 0
  | .addroundkey _ => 0
  | .rdstate => 0

/-- `temp` is what the key schedule makes of the previous word at index `i`, and where it XORs a round constant there, the table
has the entry it reads (R54 (b), R146). -/
def KeySize.ReadsRconFor (k : KeySize) (i : Nat) (previous temp : Word) : Prop :=
  scheduleTemp k.nk i previous = temp ∧
    (i % k.nk = 0 → ∃ c, rconTable[i / k.nk - 1]? = some c ∧ temp = (subWord (rotWord previous)).xor ⟨c, 0, 0, 0⟩)

end Sys2Proof

namespace Sys2Proof.Machine

/-- The sequencer is IDLE / 0, as it is whenever the core is idle (R32). -/
def State.SequencerIdle (s : State) : Prop := s.phase = .idle ∧ s.rnd = 0 ∧ s.ki = 0

/-- `W` holds the ExpandedKey of some key of the size in `KSEL`, then zero words (R30 (b)). -/
def State.HoldsExpandedKey (s : State) : Prop := ∃ key : Nat → Word, s.W = keyMemory s.ksel key

/-- R30 (b) and (c); (a) holds by the type of `KSEL`. -/
def State.KeyInvariant (s : State) : Prop :=
  (s.kvalid = true → s.HoldsExpandedKey) ∧
  (s.kvalid = false → s.ksel = .k128 ∧ s.W = Vector.replicate 60 Word.zero)

/-- An error response carries zero data, and its code is one the core produces (R240, R241). -/
def Response.Lawful (r : Response) : Prop := (r.err ≠ .ok → r.data = 0) ∧ r.err ≠ .malformedCiphertext

/-- Once no response is presented, the core holds no error code and no command word (R246). That this takes in the word of a
command that succeeded, and the word after reset, is the model's (log entries 5, 4). -/
def State.NoErrorTrace (s : State) : Prop := s.rspValid = false → s.rspErr = .ok ∧ s.cmdWord = 0

/-- The invariant of the core: sequencer idle, R30, lawful responses, presented or delivered, and no trace of an error once its
response is gone (R246). -/
def State.Inv (s : State) : Prop :=
  s.SequencerIdle ∧ s.KeyInvariant ∧ (s.rspValid = true → s.response.Lawful) ∧ (∀ r ∈ s.delivered, r.Lawful) ∧ s.NoErrorTrace

/-- No error is recorded in the run so far: every response delivered has code 0 (R246). -/
def State.NoErrors (s : State) : Prop := ∀ r ∈ s.delivered, r.err = .ok

/-- The cipher instance, `W`, `KSEL` and `KVALID`, is the same in both (R19). -/
def State.SameKey (s t : State) : Prop := t.W = s.W ∧ t.ksel = s.ksel ∧ t.kvalid = s.kvalid

/-- The architectural state of R20 is the same in both. -/
def State.SameArch (s t : State) : Prop := t.S = s.S ∧ s.SameKey t

/-- What no command touches: the sequencer, the sampled command, and the host's side (R32, R36). -/
def State.SameRest (s t : State) : Prop :=
  t.phase = s.phase ∧ t.rnd = s.rnd ∧ t.ki = s.ki ∧ t.cmdWord = s.cmdWord ∧ t.din = s.din ∧ t.host = s.host ∧
    t.delivered = s.delivered

/-- The state presents a response of this code and these 16 bytes (R36). -/
def State.Answers (s : State) (e : ErrCode) (bytes : Nat → Byte) : Prop :=
  s.rspValid = true ∧ s.rspErr = e ∧ ∀ k < 16, doutByte s.rspData k = bytes k

/-- The state presents a success without a data result: code 0 and 16 zero bytes (R17, R85). -/
def State.AnswersOk (s : State) : Prop := s.Answers .ok fun _ => 0

/-- Every piece of state that R38 lists has the reset value R38 gives. -/
def State.HasResetValues (s : State) : Prop :=
  (∀ r c, s.S.get r c = 0) ∧ (∀ i < 60, s.word i = Word.zero) ∧ s.ksel.code = 0b00 ∧ s.kvalid = false ∧
    s.phase = .idle ∧ s.rnd = 0 ∧ s.ki = 0 ∧ s.cmdReady = true ∧ s.rspValid = false ∧ s.rspErrPins = 0 ∧ s.rspData = 0 ∧
    s.busy = false ∧ s.kvalidPin = false ∧ s.kselPins = 0

/-- The command `i` ends well from `s` and leaves `m` in `S`. -/
def State.LeavesS (i : Instr) (s : State) (m : Mat4) : Prop := ∃ t, exec i s = .next t ∧ t.rspErr = .ok ∧ t.S = m

/-- `i` and then `j` give back the State `s` held (R164, R170, R176). -/
def State.Restores (i j : Instr) (s : State) : Prop :=
  ∃ t u, exec i s = .next t ∧ exec j t = .next u ∧ u.S = s.S

/-- `i` then `j` leave the same State as `j` then `i` (R181). -/
def State.Commute (i j : Instr) (s : State) : Prop :=
  ∃ t u t' u', exec i s = .next t ∧ exec j t = .next u ∧ exec j s = .next t' ∧ exec i t' = .next u' ∧ u.S = u'.S

/-- The command `i` fails from `s` with the error `e`: zero data, and nothing written (R17, R240, R249). -/
def State.FailsWith (i : Instr) (s : State) (e : ErrCode) : Prop :=
  ∃ t, exec i s = .next t ∧ t.Answers e (fun _ => 0) ∧ s.SameArch t ∧ s.SameRest t

/-- On the State whose block is `a`, the command `i` ends well and leaves the State whose block is `b`: the form of the examples
of spec/43_state_transforms.md, blocks as 32 hex digits. -/
def State.MapsBlock (i : Instr) (s : State) (a b : BitVec 128) : Prop :=
  ∃ t, exec i (s.setS (Mat4.ofBlock (doutByte a))) = .next t ∧ t.AnswersOk ∧ t.S = Mat4.ofBlock (doutByte b)

/-- The data of a command that presents 16 bytes and 16 zero bytes (R90). -/
def blockData (b : BitVec 128) : BitVec 256 := b ++ (0 : BitVec 128)

/-- The state the spec's examples start from: reset, then `KEYEXP.128 000102030405060708090a0b0c0d0e0f`. -/
def State.HoldsExampleKey (s : State) : Prop :=
  perform 0x1010 (blockData 0x000102030405060708090a0b0c0d0e0f) State.reset = .next s

/-- The nine commands that need no key (R284). -/
def keylessCommands : List Instr :=
  [.gfmul, .ldstate, .rdstate, .subbytes, .invsubbytes, .shiftrows, .invshiftrows, .mixcolumns, .invmixcolumns]

/-- The responses a list of commands gets, one for one, in order, from a state (R36, R58, R298). -/
def responsesOf : List (BitVec 16 × BitVec 256) → State → List Response
  | [], _ => []
  | c :: cs, s =>
    match perform c.1 c.2 s with
    | .next t => t.response :: responsesOf cs t
    | _ => []

/-- The host's pins for a list of commands: each presented, then its response taken (R36). -/
def presentAll (cs : List (BitVec 16 × BitVec 256)) : List Pins := cs.flatMap fun c => [Pins.command c.1 c.2, Pins.take]

end Sys2Proof.Machine
end

