-- ==== Sys2Proof/Certificates/Slice0/Obligations.lean ====
section
/-! DEFINITION. The statements for the provers. Each docstring names the rules of the spec it formalises; where a statement rests
on a choice of the model, it names the log entry. -/

open Sys2Proof Sys2Proof.Machine

/-! ## The step, reset and the invariant -/

/-- R11, R36, R89: when the core is ready and the host presents a word that decodes to `i`, the step is `exec i` on the state with
the word and the data sampled; around it the step uses up the host's row of pins (log entry 2). That a core with `RND` off zero
can be ready is the model's (log entry 8), here and wherever a statement starts from a ready core. -/
def Obligations.StepRunsDecodedInstruction : Prop :=
  ∀ (s : State) (p : Pins) (rest : List Pins) (i : Instr),
    s.host = p :: rest → p.rst = false → p.cmdValid = true → s.cmdReady = true → decode p.cmdWord = .ok i →
      i.wellFormed = true ∧ step s = exec i { s with host := rest, cmdWord := p.cmdWord, din := p.cmdData }

/-- R245: every command word that decodes to ILLEGAL, presented to the ready core, is answered with IllegalCommand, code 6. -/
def Obligations.IllegalWordIsAnswered : Prop :=
  ∀ (s : State) (p : Pins) (rest : List Pins) (e : DecodeError),
    s.host = p :: rest → p.rst = false → p.cmdValid = true → s.cmdReady = true → decode p.cmdWord = .error e →
      ∃ t, step s = .next t ∧ t.Answers .illegalCommand (fun _ => 0) ∧ t.rspErrPins = 6 ∧ s.SameArch t

/-- R38, R280: every listed piece of state has its reset value in the start state, and after any step with `rst = 1`, whatever the
core was doing. The clause that no response is delivered in that step, a response taken in that very row included, is the model's
(log entries 16 and 20), and so are the row of pins and the list of responses (log entries 2 and 3). -/
def Obligations.ResetGivesTheResetState : Prop :=
  State.reset.HasResetValues ∧
  ∀ s : State, s.pins.rst = true → ∃ t, step s = .next t ∧ t.HasResetValues ∧ t.delivered = s.delivered

/-- R30, R32: the invariant holds in the reset state (that the sampled word is zero there is log entry 4). -/
def Obligations.ResetMeetsInvariant : Prop := State.reset.Inv

/-- R30, R32, R240, R241, R246: every step keeps the invariant: sequencer idle; with a key, `W` is its ExpandedKey and zero words;
without one, `KSEL` and `W` are zero; error responses carry zero data and a code of the core's own; and once no response is
presented no error code and no command word is held (R246; the word of a command that succeeded and the word after reset are the
model's, log entries 4, 5). -/
def Obligations.StepKeepsInvariant : Prop :=
  ∀ s t : State, s.Inv → step s = .next t → t.Inv

/-- R11, R258: the step is total: no state makes it stop. -/
def Obligations.StepIsTotal : Prop := ∀ s : State, ∃ t, step s = .next t

/-- R240, R249, R258: every command word with every data gets one response; an error changes none of `S`, `W`, `KSEL`, `KVALID` and
carries zero data; nothing is saved anywhere else. -/
def Obligations.EveryCommandIsAnswered : Prop :=
  ∀ (w : BitVec 16) (d : BitVec 256) (s : State), ∃ t, perform w d s = .next t ∧
    t.rspValid = true ∧ t.rspErr ≠ .malformedCiphertext ∧
    (t.rspErr ≠ .ok → s.SameArch t ∧ t.rspData = 0) ∧
    t.phase = s.phase ∧ t.rnd = s.rnd ∧ t.ki = s.ki ∧ t.host = s.host ∧ t.delivered = s.delivered

/-! ## Encoding and decoding -/

/-- A few words written out from R81 and R86 decode to the commands they stand for. -/
def Obligations.SpecWordsDecode : Prop :=
  decode 0x1058 = .ok (.keyexp 0b01 24) ∧ decode 0x110A = .ok (.rdrk 10) ∧ decode 0x260F = .ok (.addroundkey 15) ∧
  decode 0x2700 = .ok .gfmul ∧ decode 0x3100 = .ok .rdstate ∧ decode 0x4100 = .ok .dec ∧
  decode 0x4001 = .error .formatZArgNotZero ∧ decode 0x1110 = .error .formatRHighNibbleNotZero ∧
  decode 0x2800 = .error .unassignedOpcode

/-- R80, R81, R86, R89: decoding the encoding of any well-formed command gives it back, with every operand at every value. -/
def Obligations.DecodeEncodeAgree : Prop := ∀ i : Instr, i.wellFormed = true → decode (encode i) = .ok i

/-- R89, R87: a word decodes to a command only if it is the encoding of that command, which is well formed. -/
def Obligations.DecodedWordsAreEncodings : Prop :=
  ∀ (w : BitVec 16) (i : Instr), decode w = .ok i → i.wellFormed = true ∧ encode i = w

/-- R86: a word decodes to a command of a row exactly when it matches the row's match value under the row's mask. -/
def Obligations.DecodeFollowsMatchAndMask : Prop :=
  ∀ (w : BitVec 16) (i : Instr),
    (w &&& i.rowMask = i.rowMatch ↔ ∃ j, decode w = .ok j ∧ j.opcode = i.opcode)

/-- R87: which words are illegal, that they are answered with IllegalCommand and change no state, that 299 words are legal, and the
two legal encodings that always fail at execution. -/
def Obligations.IllegalWordsAreExactly : Prop :=
  (∀ w : BitVec 16, (∃ e, decode w = .error e) ↔
    (w.extractLsb' 8 8 ∉ [0x10, 0x11, 0x20, 0x21, 0x22, 0x23, 0x24, 0x25, 0x26, 0x27, 0x30, 0x31, 0x40, 0x41#8]) ∨
    (w.extractLsb' 8 8 ∈ [0x20, 0x21, 0x22, 0x23, 0x24, 0x25, 0x27, 0x30, 0x31, 0x40, 0x41#8] ∧ w.extractLsb' 0 8 ≠ 0#8) ∨
    (w.extractLsb' 8 8 ∈ [0x11, 0x26#8] ∧ w.extractLsb' 4 4 ≠ 0#4)) ∧
  (∀ (w : BitVec 16) (d : BitVec 256) (s : State) (e : DecodeError), decode w = .error e →
    ∃ t, perform w d s = .next t ∧ t.Answers .illegalCommand (fun _ => 0) ∧ s.SameArch t) ∧
  ((List.range 65536).countP fun n => (decode (BitVec.ofNat 16 n)).toOption.isSome) = 299 ∧
  (∀ (klen : Nat) (s : State), ∃ t, exec (.keyexp 0b11 klen) s = .next t ∧ t.rspErr = .invalidKeySize) ∧
  (∀ (round : Nat) (s : State), s.ksel.nr < round →
    (∃ t, exec (.rdrk round) s = .next t ∧ t.rspErr = if s.kvalid then .roundOutOfRange else .noKey) ∧
    (∃ t, exec (.addroundkey round) s = .next t ∧ t.rspErr = if s.kvalid then .roundOutOfRange else .noKey))

/-! ## Errors -/

/-- R242, R243, R248: which error a command raises, in order of priority; the nine commands of R284 raise none. -/
def Obligations.ErrorPriority : Prop :=
  (∀ (w : BitVec 16) (d : BitVec 256) (s : State) (e : DecodeError), decode w = .error e →
    ∃ t, perform w d s = .next t ∧ t.rspErr = .illegalCommand) ∧
  (∀ (ksel : BitVec 2) (klen : Nat) (s : State), ∃ t, exec (.keyexp ksel klen) s = .next t ∧
    t.rspErr =
      if ksel = 0b11 then .invalidKeySize
      else if klen ≠ 4 * (if ksel = 0b00 then 4 else if ksel = 0b01 then 6 else 8) then .invalidKeyMaterial
      else .ok) ∧
  (∀ (round : Nat) (s : State) (i : Instr), i = .rdrk round ∨ i = .addroundkey round →
    ∃ t, exec i s = .next t ∧
      t.rspErr = if s.kvalid = false then .noKey else if round > s.ksel.nr then .roundOutOfRange else .ok) ∧
  (∀ (s : State) (i : Instr), i = .enc ∨ i = .dec →
    ∃ t, exec i s = .next t ∧ t.rspErr = if s.kvalid = false then .noKey else .ok) ∧
  (∀ (s : State) (i : Instr), i ∈ keylessCommands → ∃ t, exec i s = .next t ∧ t.rspErr = .ok)

/-- R284, R283: straight after reset, whatever data is presented, the nine commands without a key succeed and the four that need
one answer NoKey. -/
def Obligations.StraightAfterReset : Prop :=
  ∀ d : BitVec 256,
    (∀ i ∈ keylessCommands, ∃ t, perform (encode i) d State.reset = .next t ∧ t.rspErr = .ok) ∧
    (∀ i ∈ [.rdrk 0, .addroundkey 0, .enc, .dec], ∃ t, perform (encode i) d State.reset = .next t ∧ t.rspErr = .noKey)

/-! ## What each command does, and what it leaves unchanged -/

/-- R160, R163: `SUBBYTES` and `INVSUBBYTES`: their words, their result and their frame from every state, and the examples. -/
def Obligations.SubBytesResult : Prop :=
  decode 0x2000 = .ok .subbytes ∧ decode 0x2100 = .ok .invsubbytes ∧
  ∀ s : State,
    (∃ t, exec .subbytes s = .next t ∧ (∀ r c, t.S.get r c = SBOX (s.S.get r c)) ∧ s.SameKey t ∧ t.AnswersOk ∧ s.SameRest t) ∧
    (∃ t, exec .invsubbytes s = .next t ∧ (∀ r c, t.S.get r c = INVSBOX (s.S.get r c)) ∧ s.SameKey t ∧ t.AnswersOk ∧
      s.SameRest t) ∧
    s.MapsBlock .subbytes 0 0x63636363636363636363636363636363 ∧
    s.MapsBlock .subbytes 0x00102030405060708090a0b0c0d0e0f0 0x63cab7040953d051cd60e0e7ba70e18c ∧
    s.MapsBlock .subbytes 0x000102030405060708090a0b0c0d0e0f 0x637c777bf26b6fc53001672bfed7ab76 ∧
    s.MapsBlock .invsubbytes 0 0x52525252525252525252525252525252 ∧
    s.MapsBlock .invsubbytes 0x63636363636363636363636363636363 0 ∧
    s.MapsBlock .invsubbytes 0x000102030405060708090a0b0c0d0e0f 0x52096ad53036a538bf40a39e81f3d7fb

/-- R166, R169: `SHIFTROWS` and `INVSHIFTROWS`: their words, their result from every state, also as the permutation of the block
bytes the rules print, their frame, and the examples. -/
def Obligations.ShiftRowsResult : Prop :=
  decode 0x2200 = .ok .shiftrows ∧ decode 0x2300 = .ok .invshiftrows ∧
  ∀ s : State,
    (∃ t, exec .shiftrows s = .next t ∧
      (∀ r c : Fin 4, t.S.get r c = s.S.get r ⟨(c.val + r.val) % 4, Nat.mod_lt _ (by decide)⟩) ∧
      t.S.block = [0, 5, 10, 15, 4, 9, 14, 3, 8, 13, 2, 7, 12, 1, 6, 11].map s.S.blockByte ∧
      s.SameKey t ∧ t.AnswersOk ∧ s.SameRest t) ∧
    (∃ t, exec .invshiftrows s = .next t ∧
      (∀ r c : Fin 4, t.S.get r c = s.S.get r ⟨(c.val + 4 - r.val) % 4, Nat.mod_lt _ (by decide)⟩) ∧
      t.S.block = [0, 13, 10, 7, 4, 1, 14, 11, 8, 5, 2, 15, 12, 9, 6, 3].map s.S.blockByte ∧
      s.SameKey t ∧ t.AnswersOk ∧ s.SameRest t) ∧
    s.MapsBlock .shiftrows 0x000102030405060708090a0b0c0d0e0f 0x00050a0f04090e03080d02070c01060b ∧
    s.MapsBlock .shiftrows 0x63cab7040953d051cd60e0e7ba70e18c 0x6353e08c0960e104cd70b751bacad0e7 ∧
    s.MapsBlock .invshiftrows 0x000102030405060708090a0b0c0d0e0f 0x000d0a0704010e0b0805020f0c090603

/-- R172, R175: `MIXCOLUMNS` and `INVMIXCOLUMNS`: their words, the four rows of each column from every state, their frame, a column
of four equal bytes, and the examples. -/
def Obligations.MixColumnsResult : Prop :=
  decode 0x2400 = .ok .mixcolumns ∧ decode 0x2500 = .ok .invmixcolumns ∧
  ∀ s : State,
    (∃ t, exec .mixcolumns s = .next t ∧
      (∀ c, t.S.get 0 c = gmul 2 (s.S.get 0 c) ^^^ gmul 3 (s.S.get 1 c) ^^^ s.S.get 2 c ^^^ s.S.get 3 c) ∧
      (∀ c, t.S.get 1 c = s.S.get 0 c ^^^ gmul 2 (s.S.get 1 c) ^^^ gmul 3 (s.S.get 2 c) ^^^ s.S.get 3 c) ∧
      (∀ c, t.S.get 2 c = s.S.get 0 c ^^^ s.S.get 1 c ^^^ gmul 2 (s.S.get 2 c) ^^^ gmul 3 (s.S.get 3 c)) ∧
      (∀ c, t.S.get 3 c = gmul 3 (s.S.get 0 c) ^^^ s.S.get 1 c ^^^ s.S.get 2 c ^^^ gmul 2 (s.S.get 3 c)) ∧
      (∀ c, (∀ r, s.S.get r c = s.S.get 0 c) → ∀ r, t.S.get r c = s.S.get r c) ∧
      s.SameKey t ∧ t.AnswersOk ∧ s.SameRest t) ∧
    (∃ t, exec .invmixcolumns s = .next t ∧
      (∀ c, t.S.get 0 c = gmul 14 (s.S.get 0 c) ^^^ gmul 11 (s.S.get 1 c) ^^^ gmul 13 (s.S.get 2 c) ^^^ gmul 9 (s.S.get 3 c)) ∧
      (∀ c, t.S.get 1 c = gmul 9 (s.S.get 0 c) ^^^ gmul 14 (s.S.get 1 c) ^^^ gmul 11 (s.S.get 2 c) ^^^ gmul 13 (s.S.get 3 c)) ∧
      (∀ c, t.S.get 2 c = gmul 13 (s.S.get 0 c) ^^^ gmul 9 (s.S.get 1 c) ^^^ gmul 14 (s.S.get 2 c) ^^^ gmul 11 (s.S.get 3 c)) ∧
      (∀ c, t.S.get 3 c = gmul 11 (s.S.get 0 c) ^^^ gmul 13 (s.S.get 1 c) ^^^ gmul 9 (s.S.get 2 c) ^^^ gmul 14 (s.S.get 3 c)) ∧
      (∀ c, (∀ r, s.S.get r c = s.S.get 0 c) → ∀ r, t.S.get r c = s.S.get r c) ∧
      s.SameKey t ∧ t.AnswersOk ∧ s.SameRest t) ∧
    (∀ a b x : Mat4, (∀ r c, x.get r c = a.get r c ^^^ b.get r c) → ∃ ta tb tx, exec .mixcolumns (s.setS a) = .next ta ∧
      exec .mixcolumns (s.setS b) = .next tb ∧ exec .mixcolumns (s.setS x) = .next tx ∧
      ∀ r c, tx.S.get r c = ta.S.get r c ^^^ tb.S.get r c) ∧
    s.MapsBlock .mixcolumns 0x6353e08c0960e104cd70b751bacad0e7 0x5f72641557f5bc92f7be3b291db9f91a ∧
    s.MapsBlock .mixcolumns 0xdb135345d4bf5d300100000000000000 0x8e4da1bc046681e50201010300000000 ∧
    s.MapsBlock .invmixcolumns 0x8e4da1bc046681e50100000000000000 0xdb135345d4bf5d300e090d0b00000000

/-- R178: `ADDROUNDKEY`: its words; with a key and `round <= Nr` it XORs byte `r` of word `4*round + c` into `S[r][c]`; its frame;
its two errors in order; done twice it restores the State; the examples. -/
def Obligations.AddRoundKeyResult : Prop :=
  (∀ round, round < 16 → decode (BitVec.ofNat 16 (0x2600 + round)) = .ok (.addroundkey round)) ∧
  (∀ (s : State) (round : Nat), s.kvalid = true → round ≤ s.ksel.nr →
    ∃ t u, exec (.addroundkey round) s = .next t ∧
      (∀ r c : Fin 4, t.S.get r c = s.S.get r c ^^^ (s.word (4 * round + c.val)).byte r) ∧
      s.SameKey t ∧ t.AnswersOk ∧ s.SameRest t ∧ exec (.addroundkey round) t = .next u ∧ u.S = s.S) ∧
  (∀ (s : State) (round : Nat), s.kvalid = false → s.FailsWith (.addroundkey round) .noKey) ∧
  (∀ (s : State) (round : Nat), s.kvalid = true → s.ksel.nr < round → s.FailsWith (.addroundkey round) .roundOutOfRange) ∧
  ∃ s : State, s.HoldsExampleKey ∧
    s.MapsBlock (.addroundkey 0) 0x00112233445566778899aabbccddeeff 0x00102030405060708090a0b0c0d0e0f0 ∧
    s.MapsBlock (.addroundkey 1) 0x5f72641557f5bc92f7be3b291db9f91a 0x89d810e8855ace682d1843d8cb128fe4

/-- R152: `RDRK`: its words; with a key and `round <= Nr` it responds the four words of the round key in byte order and writes no
state; its two errors in order; the examples. -/
def Obligations.RdrkResult : Prop :=
  (∀ round, round < 16 → decode (BitVec.ofNat 16 (0x1100 + round)) = .ok (.rdrk round)) ∧
  (∀ (s : State) (round : Nat), s.kvalid = true → round ≤ s.ksel.nr →
    ∃ t, exec (.rdrk round) s = .next t ∧ t.rspValid = true ∧ t.rspErr = .ok ∧
      (∀ c j : Fin 4, doutByte t.rspData (4 * c.val + j.val) = (s.word (4 * round + c.val)).byte j) ∧
      s.SameArch t ∧ s.SameRest t) ∧
  (∀ (s : State) (round : Nat), s.kvalid = false → s.FailsWith (.rdrk round) .noKey) ∧
  (∀ (s : State) (round : Nat), s.kvalid = true → s.ksel.nr < round → s.FailsWith (.rdrk round) .roundOutOfRange) ∧
  ∃ s t u : State, s.HoldsExampleKey ∧ exec (.rdrk 1) s = .next t ∧ t.rspData = 0xd6aa74fdd2af72fadaa678f1d6ab76fe ∧
    exec (.rdrk 10) s = .next u ∧ u.rspData = 0x13111d7fe3944a17f307a78b4d2b30c5 ∧ s.FailsWith (.rdrk 11) .roundOutOfRange

/-- R134: `GFMUL`: its word; from every state it responds the product in byte 0 and zeros, and writes no state; the corner cases
and the example. -/
def Obligations.GfmulResult : Prop :=
  decode 0x2700 = .ok .gfmul ∧
  (∀ s : State, ∃ t, exec .gfmul s = .next t ∧
    t.Answers .ok (fun k => if k = 0 then gmul (dinByte s.din 0) (dinByte s.din 1) else 0) ∧ s.SameArch t ∧ s.SameRest t) ∧
  (∀ a : Byte, gmul a 0 = 0 ∧ gmul 0 a = 0 ∧ gmul a 1 = a) ∧ gmul 0x80 0x02 = 0x1b ∧ gmul 0xff 0xff = 0x13 ∧
  ∀ s : State, ∃ t, perform 0x2700 (packDin [0x57, 0x83]) s = .next t ∧ t.rspErr = .ok ∧
    t.rspData = 0xc1000000000000000000000000000000

/-- R191, R193: `LDSTATE` and `RDSTATE`: their words; block byte `k` is `S[k mod 4][k div 4]`, from every state; their frames; the
example; and after reset `RDSTATE` returns zeros. -/
def Obligations.StateAccessResult : Prop :=
  decode 0x3000 = .ok .ldstate ∧ decode 0x3100 = .ok .rdstate ∧
  (∀ s : State,
    (∃ t, exec .ldstate s = .next t ∧ (∀ r c : Fin 4, t.S.get r c = dinByte s.din (r.val + 4 * c.val)) ∧ s.SameKey t ∧
      t.AnswersOk ∧ s.SameRest t) ∧
    (∃ t, exec .rdstate s = .next t ∧ t.rspValid = true ∧ t.rspErr = .ok ∧
      (∀ r c : Fin 4, doutByte t.rspData (r.val + 4 * c.val) = s.S.get r c) ∧ s.SameArch t ∧ s.SameRest t)) ∧
  (∀ s : State, ∃ t u, perform 0x3000 (blockData 0x00112233445566778899aabbccddeeff) s = .next t ∧
    t.S.get 0 0 = 0x00 ∧ t.S.get 1 0 = 0x11 ∧ t.S.get 0 1 = 0x44 ∧ t.S.get 3 3 = 0xff ∧
    exec .rdstate t = .next u ∧ u.rspData = 0x00112233445566778899aabbccddeeff) ∧
  ∃ t, exec .rdstate State.reset = .next t ∧ t.rspErr = .ok ∧ t.rspData = 0

/-- R196: `ENC`: its word; with a key the block runs through the initial stage, the main stages `1` to `Nr-1` and the final stage
without MixColumns (`m r` is the State after the stage of round `r`), stays in `S` and is the response; its frame; its error;
the source's known answer. The transforms are held to their rules by the statements above. -/
def Obligations.EncResult : Prop :=
  decode 0x4000 = .ok .enc ∧
  (∀ s : State, s.kvalid = true →
    ∃ (m : Nat → Mat4) (t : State), exec .enc s = .next t ∧
      m 0 = addRoundKey (s.roundKey 0) (Mat4.ofBlock (dinByte s.din)) ∧
      (∀ r, 1 ≤ r → r < s.ksel.nr → m r = addRoundKey (s.roundKey r) (mixColumns (shiftRows (subBytes (m (r - 1)))))) ∧
      t.S = addRoundKey (s.roundKey s.ksel.nr) (shiftRows (subBytes (m (s.ksel.nr - 1)))) ∧
      t.Answers .ok t.S.blockByte ∧ s.SameKey t ∧ s.SameRest t) ∧
  (∀ s : State, s.kvalid = false → s.FailsWith .enc .noKey) ∧
  ∃ s t : State, s.HoldsExampleKey ∧ perform 0x4000 (blockData 0x00112233445566778899aabbccddeeff) s = .next t ∧
    t.rspErr = .ok ∧ t.rspData = 0x69c4e0d86a7b0430d8cdb78070b4c55a

/-- R200: `DEC`: its word; with a key the block runs through the reversed final stage, the reversed main stages `Nr-1` down to 1
and the reversed initial stage (`m r` is the State after the stage of round `r`), stays in `S` and is the response; its frame;
its error; the rule's example. -/
def Obligations.DecResult : Prop :=
  decode 0x4100 = .ok .dec ∧
  (∀ s : State, s.kvalid = true →
    ∃ (m : Nat → Mat4) (t : State), exec .dec s = .next t ∧
      m s.ksel.nr =
        invSubBytes (invShiftRows (addRoundKey (s.roundKey s.ksel.nr) (Mat4.ofBlock (dinByte s.din)))) ∧
      (∀ r, 1 ≤ r → r < s.ksel.nr →
        m r = invSubBytes (invShiftRows (invMixColumns (addRoundKey (s.roundKey r) (m (r + 1)))))) ∧
      t.S = addRoundKey (s.roundKey 0) (m 1) ∧ t.Answers .ok t.S.blockByte ∧ s.SameKey t ∧ s.SameRest t) ∧
  (∀ s : State, s.kvalid = false → s.FailsWith .dec .noKey) ∧
  ∃ s t : State, s.HoldsExampleKey ∧ perform 0x4100 (blockData 0x69c4e0d86a7b0430d8cdb78070b4c55a) s = .next t ∧
    t.rspErr = .ok ∧ t.rspData = 0x00112233445566778899aabbccddeeff

/-- R149: `KEYEXP`: its words; with a supported size and a matching length it completes from every state: the key words from
`DIN`, then the recurrence of R146 on `W` itself, then zero words, `KSEL`, `KVALID`; its frame; its two errors in order; the
rule's example. -/
def Obligations.KeyexpResult : Prop :=
  (∀ (ksel : BitVec 2) (klen : Nat), klen < 64 →
    decode (BitVec.ofNat 16 (0x1000 + 64 * ksel.toNat + klen)) = .ok (.keyexp ksel klen)) ∧
  (∀ (s : State) (k : KeySize), ∃ t, exec (.keyexp k.code (4 * k.nk)) s = .next t ∧
    (∀ i < k.nk, ∀ j : Fin 4, (t.word i).byte j = dinByte s.din (4 * i + j.val)) ∧
    (∀ i, k.nk ≤ i → i < 4 * (k.nr + 1) →
      t.word i = (t.word (i - k.nk)).xor
        (if i % k.nk = 0 then (subWord (rotWord (t.word (i - 1)))).xor ⟨RCON (i / k.nk - 1), 0, 0, 0⟩
         else if k.nk > 6 ∧ i % k.nk = 4 then subWord (t.word (i - 1))
         else t.word (i - 1))) ∧
    (∀ i, 4 * (k.nr + 1) ≤ i → i < 60 → t.word i = Word.zero) ∧
    t.ksel = k ∧ t.kvalid = true ∧ t.S = s.S ∧ t.AnswersOk ∧ s.SameRest t) ∧
  (∀ (s : State) (klen : Nat), s.FailsWith (.keyexp 0b11 klen) .invalidKeySize) ∧
  (∀ (s : State) (k : KeySize) (klen : Nat), klen ≠ 4 * k.nk → s.FailsWith (.keyexp k.code klen) .invalidKeyMaterial) ∧
  ∃ s : State, s.HoldsExampleKey ∧ s.kvalid = true ∧ s.ksel.code = 0b00 ∧ s.word 0 = ⟨0x00, 0x01, 0x02, 0x03⟩ ∧
    s.word 4 = ⟨0xd6, 0xaa, 0x74, 0xfd⟩ ∧ s.word 43 = ⟨0x4d, 0x2b, 0x30, 0xc5⟩ ∧
    (∀ i, 44 ≤ i → i < 60 → s.word i = Word.zero) ∧ s.AnswersOk

/-- R151, R29: after a successful `KEYEXP` the words `W[0..Nk-1]` spell the key, and `W` is an ExpandedKey and zero words. -/
def Obligations.KeyexpSpellsTheKey : Prop :=
  ∀ (s t : State) (ksel : BitVec 2) (klen : Nat), exec (.keyexp ksel klen) s = .next t → t.rspErr = .ok →
    t.cipherKey = (List.range klen).map (dinByte s.din) ∧ t.cipherKey.length = 4 * t.ksel.nk ∧ t.HoldsExpandedKey ∧
      ∀ i < t.ksel.nk, ∀ j : Fin 4, (t.word i).byte j = dinByte s.din (4 * i + j.val)

/-! ## Key sizes, the multiplier and the tables -/

/-- R27: the table of key sizes; the code 0b11 is never held. -/
def Obligations.KeySizeTable : Prop :=
  ∀ s : State, (s.ksel.code = 0b00 ∧ s.ksel.nk = 4 ∧ s.ksel.nr = 10 ∧ s.ksel.words = 44) ∨
    (s.ksel.code = 0b01 ∧ s.ksel.nk = 6 ∧ s.ksel.nr = 12 ∧ s.ksel.words = 52) ∨
    (s.ksel.code = 0b10 ∧ s.ksel.nk = 8 ∧ s.ksel.nr = 14 ∧ s.ksel.words = 60)

/-- R131: the eight iterations compute the product of R130, for all pairs. -/
def Obligations.GmulIterationAgrees : Prop := ∀ a b : Byte, gmulIter a b = gmul a b

/-- R132: the laws of the multiplier. -/
def Obligations.GmulFieldLaws : Prop :=
  ∀ a b c : Byte,
    gmul a 0x01 = a ∧ gmul 0x01 a = a ∧ gmul a 0x00 = 0x00 ∧ gmul 0x00 a = 0x00 ∧ gmul a b = gmul b a ∧
    gmul a (b ^^^ c) = gmul a b ^^^ gmul a c ∧ gmul (gmul a b) c = gmul a (gmul b c) ∧
    (a ≠ 0 → ∃! x, gmul a x = 0x01) ∧ gmul 0x53 0xca = 0x01 ∧
    gmul a 0x02 = (a <<< 1) ^^^ (if a.getLsbD 7 then 0x1B else 0x00)

/-- R112: `SBOX` is the field inverse followed by the rotations and 0x63; every non-zero byte has such an inverse. -/
def Obligations.SboxConstruction : Prop :=
  (∀ b x : Byte, gmul b x = 1 ∨ (b = 0 ∧ x = 0) →
    SBOX b = x ^^^ x.rotateLeft 1 ^^^ x.rotateLeft 2 ^^^ x.rotateLeft 3 ^^^ x.rotateLeft 4 ^^^ 0x63) ∧
  (∀ b : Byte, b ≠ 0 → ∃ x, gmul b x = 1)

/-- R114: the two tables are inverse permutations; the first defines the second completely. -/
def Obligations.InverseTables : Prop :=
  ∀ b y : Byte, INVSBOX (SBOX b) = b ∧ SBOX (INVSBOX b) = b ∧ (INVSBOX y = b ↔ SBOX b = y)

/-- R117: `RCON` is the powers of 2, and no index above 9 arises. -/
def Obligations.RconPowers : Prop :=
  RCON 0 = 0x01 ∧ (∀ k, 1 ≤ k → k ≤ 9 → RCON k = gmul (RCON (k - 1)) 0x02) ∧ gmul 0x80 0x02 = 0x1b ∧
  (∀ (k : KeySize) (i : Nat), k.nk ≤ i → i < k.words → i % k.nk = 0 → i / k.nk - 1 ≤ 9) ∧
  (∃ i, KeySize.k128.nk ≤ i ∧ i < KeySize.k128.words ∧ i % KeySize.k128.nk = 0 ∧ i / KeySize.k128.nk - 1 = 9)

/-- R54 (a) to (d), R56: no default of a read is ever taken (log entry 11). Each clause names the elements the model's definition
reads, says that its space has them (`some`), and gives the definition's result from them:
the S-boxes; the round key of a round up to `Nr`, as `ADDROUNDKEY`, `ENC`, `DEC` and as `RDRK` read it; the CipherKey; the next
word of the schedule from the words before it, with the `RCON` entry where one is read; and the sequencer's step of the same
schedule, which reads and writes `W` itself. -/
def Obligations.IndicesInRange : Prop :=
  (∀ b : Byte, (∃ row, sboxGrid[b.toNat / 16]? = some row ∧ row[b.toNat % 16]? = some (SBOX b)) ∧
    ∃ row, invsboxGrid[b.toNat / 16]? = some row ∧ row[b.toNat % 16]? = some (INVSBOX b)) ∧
  (∀ (s : State) (round : Nat), round ≤ s.ksel.nr →
    ∃ w0 w1 w2 w3, s.W[4 * round]? = some w0 ∧ s.W[4 * round + 1]? = some w1 ∧ s.W[4 * round + 2]? = some w2 ∧
      s.W[4 * round + 3]? = some w3 ∧ s.roundKey round = ⟨w0, w1, w2, w3⟩ ∧
      s.roundKeyBytes round = w0.bytes ++ w1.bytes ++ w2.bytes ++ w3.bytes) ∧
  (∀ (s : State) (i : Nat), i < s.ksel.nk → s.W[i]? = some (s.word i)) ∧
  (∀ (k : KeySize) (key : Nat → Word) (i : Nat), k.nk ≤ i → i < k.words →
    ∃ earlier previous temp, (expandWords k.nk key i)[i - k.nk]? = some earlier ∧
      (expandWords k.nk key i)[i - 1]? = some previous ∧ k.ReadsRconFor i previous temp ∧
      scheduleWord k.nk key (expandWords k.nk key i) i = earlier.xor temp) ∧
  (∀ (s : State) (k : KeySize), k.nk ≤ s.ki.toNat → s.ki.toNat < k.words →
    ∃ earlier previous temp, s.W[s.ki.toNat - k.nk]? = some earlier ∧ s.W[s.ki.toNat - 1]? = some previous ∧
      k.ReadsRconFor s.ki.toNat previous temp ∧ (s.keyStage k).W[s.ki.toNat]? = some (earlier.xor temp))

/-- R141, R143, R144: `RotWord`, also as a rotation of the packed number and four times the identity; `SubWord`; the
round-constant word, whose XOR changes byte 0 only; and the rules' examples. -/
def Obligations.WordFunctions : Prop :=
  (∀ b0 b1 b2 b3 : Byte, rotWord ⟨b0, b1, b2, b3⟩ = ⟨b1, b2, b3, b0⟩) ∧
  (∀ w : Word, (rotWord w).toBits = w.toBits.rotateLeft 8) ∧
  (∀ w : Word, rotWord (rotWord (rotWord (rotWord w))) = w) ∧
  rotWord ⟨0x0c, 0x0d, 0x0e, 0x0f⟩ = ⟨0x0d, 0x0e, 0x0f, 0x0c⟩ ∧
  rotWord ⟨0x09, 0xcf, 0x4f, 0x3c⟩ = ⟨0xcf, 0x4f, 0x3c, 0x09⟩ ∧
  (∀ (w : Word) (j : Fin 4), (subWord w).byte j = SBOX (w.byte j)) ∧
  subWord ⟨0x0d, 0x0e, 0x0f, 0x0c⟩ = ⟨0xd7, 0xab, 0x76, 0xfe⟩ ∧
  subWord ⟨0xcf, 0x4f, 0x3c, 0x09⟩ = ⟨0x8a, 0x84, 0xeb, 0x01⟩ ∧
  subWord ⟨0x00, 0x10, 0x20, 0x30⟩ = ⟨0x63, 0xca, 0xb7, 0x04⟩ ∧
  (∀ k, k < 10 → rconWord k = ⟨RCON k, 0, 0, 0⟩) ∧
  (∀ (w : Word) (k : Nat), k < 10 → w.xor (rconWord k) = ⟨w.b0 ^^^ RCON k, w.b1, w.b2, w.b3⟩)

/-! ## Laws of the transforms -/

/-- R164, R170: the byte substitutions, and the row shifts, undo each other, in both orders; four `SHIFTROWS` are the identity. -/
def Obligations.SubAndShiftInverses : Prop :=
  ∀ s : State, s.Restores .subbytes .invsubbytes ∧ s.Restores .invsubbytes .subbytes ∧
    s.Restores .shiftrows .invshiftrows ∧ s.Restores .invshiftrows .shiftrows ∧
    ∃ t u v w, exec .shiftrows s = .next t ∧ exec .shiftrows t = .next u ∧ exec .shiftrows u = .next v ∧
      exec .shiftrows v = .next w ∧ w.S = s.S

/-- R176: the column mixes undo each other, in both orders. -/
def Obligations.MixColumnsInverses : Prop :=
  ∀ s : State, s.Restores .mixcolumns .invmixcolumns ∧ s.Restores .invmixcolumns .mixcolumns

/-- R179: in block order `ADDROUNDKEY` is a plain XOR of the block `RDSTATE` returns with the bytes `RDRK` returns. -/
def Obligations.AddRoundKeyIsBlockXor : Prop :=
  ∀ (s : State) (round : Nat), s.kvalid = true → round ≤ s.ksel.nr →
    ∃ b k t a, exec .rdstate s = .next b ∧ exec (.rdrk round) s = .next k ∧ exec (.addroundkey round) s = .next t ∧
      exec .rdstate t = .next a ∧
      ∀ j < 16, doutByte a.rspData j = doutByte b.rspData j ^^^ doutByte k.rspData j

/-- R181, first two sentences: the substitutions commute with the row shifts. (The rule's next sentence, that no other pair
commutes, is not stated: see NOTES.md.) -/
def Obligations.SubAndShiftCommute : Prop :=
  ∀ s : State, s.Commute .subbytes .shiftrows ∧ s.Commute .invsubbytes .invshiftrows

/-- R180: each of the seven transforms is a total function and a bijection on the States, answers with error 0 and zero data,
touches no key, and undoes or is undone by its inverse. -/
def Obligations.TransformsAreBijections : Prop :=
  ∀ (s : State) (round : Nat) (i j : Instr),
    (i, j) ∈ [(.subbytes, .invsubbytes), (.invsubbytes, .subbytes), (.shiftrows, .invshiftrows), (.invshiftrows, .shiftrows),
      (.mixcolumns, .invmixcolumns), (.invmixcolumns, .mixcolumns), (.addroundkey round, .addroundkey round)] →
    (i = .addroundkey round → s.kvalid = true ∧ round ≤ s.ksel.nr) →
    (∃ t, exec i s = .next t ∧ t.AnswersOk ∧ s.SameKey t) ∧ s.Restores i j ∧
    ∀ m : Mat4, ∃! x, (s.setS x).LeavesS i m

/-! ## Laws of the engine -/

/-- R194: `LDSTATE B` followed by `RDSTATE` returns `B`. -/
def Obligations.LoadThenReadReturnsBlock : Prop :=
  ∀ s : State, ∃ t u, exec .ldstate s = .next t ∧ exec .rdstate t = .next u ∧ u.rspErr = .ok ∧
    ∀ k < 16, doutByte u.rspData k = dinByte s.din k

/-- R197: `ENC` works in the one `S`: what it leaves there is its response, cell by cell, which a following `RDSTATE` returns again
and from which each of the seven transforms continues. R196: the old `S` has no influence. -/
def Obligations.EncLeavesResultInState : Prop :=
  ∀ (s : State) (m : Mat4), s.kvalid = true →
    ∃ t u w, exec .enc s = .next t ∧ (∀ r c : Fin 4, t.S.get r c = doutByte t.rspData (r.val + 4 * c.val)) ∧
      exec .rdstate t = .next u ∧ u.rspErr = .ok ∧ u.rspData = t.rspData ∧ u.S = t.S ∧
      t.LeavesS .subbytes (subBytes (Mat4.ofBlock (doutByte t.rspData))) ∧
      t.LeavesS .invsubbytes (invSubBytes (Mat4.ofBlock (doutByte t.rspData))) ∧
      t.LeavesS .shiftrows (shiftRows (Mat4.ofBlock (doutByte t.rspData))) ∧
      t.LeavesS .invshiftrows (invShiftRows (Mat4.ofBlock (doutByte t.rspData))) ∧
      t.LeavesS .mixcolumns (mixColumns (Mat4.ofBlock (doutByte t.rspData))) ∧
      t.LeavesS .invmixcolumns (invMixColumns (Mat4.ofBlock (doutByte t.rspData))) ∧
      (∀ round, round ≤ s.ksel.nr →
        t.LeavesS (.addroundkey round) (addRoundKey (s.roundKey round) (Mat4.ofBlock (doutByte t.rspData)))) ∧
      exec .enc (s.setS m) = .next w ∧ w = t

/-- R198: with a key, `ENC B` leaves the same `S` and responds the same data as the sequence of single transforms; without one,
`ENC` fails at once and leaves `S` alone, while the sequence loads `S` and fails at its first `ADDROUNDKEY`. -/
def Obligations.EncAsSequence : Prop :=
  ∀ (s : State) (b : List Byte),
    (s.kvalid = true → ∃ t u,
      perform (encode .enc) (packDin b) s = .next t ∧
      performAll ((encLines s.ksel.nr b ++ [AsmLine.command .rdstate []]).map AsmLine.presented) s = .next u ∧
      t.rspErr = .ok ∧ u.rspErr = .ok ∧ u.S = t.S ∧ u.rspData = t.rspData) ∧
    (s.kvalid = false → ∃ t u v,
      perform (encode .enc) (packDin b) s = .next t ∧ t.rspErr = .noKey ∧ t.S = s.S ∧
      performAll [(AsmLine.command .ldstate b).presented] s = .next u ∧ u.rspErr = .ok ∧
      (∀ r c : Fin 4, u.S.get r c = b.getD (r.val + 4 * c.val) 0) ∧
      perform (encode (.addroundkey 0)) 0 u = .next v ∧ v.rspErr = .noKey ∧ v.S = u.S)

/-- R202: the same for `DEC`: without a key, `DEC` fails at once and leaves `S` alone, while the sequence loads `S` and fails at its
first `ADDROUNDKEY`. -/
def Obligations.DecAsSequence : Prop :=
  ∀ (s : State) (b : List Byte),
    (s.kvalid = true → ∃ t u,
      perform (encode .dec) (packDin b) s = .next t ∧
      performAll ((decLines s.ksel.nr b ++ [AsmLine.command .rdstate []]).map AsmLine.presented) s = .next u ∧
      t.rspErr = .ok ∧ u.rspErr = .ok ∧ u.S = t.S ∧ u.rspData = t.rspData) ∧
    (s.kvalid = false → ∃ t u v,
      perform (encode .dec) (packDin b) s = .next t ∧ t.rspErr = .noKey ∧ t.S = s.S ∧
      performAll [(AsmLine.command .ldstate b).presented] s = .next u ∧ u.rspErr = .ok ∧
      (∀ r c : Fin 4, u.S.get r c = b.getD (r.val + 4 * c.val) 0) ∧
      perform (encode (.addroundkey s.ksel.nr)) 0 u = .next v ∧ v.rspErr = .noKey ∧ v.S = u.S)

/-- R204: with any key loaded, `DEC` of the data `ENC` returned gives the block back, and `ENC` of the data `DEC` returned too. -/
def Obligations.EncDecRoundTrip : Prop :=
  ∀ (s : State) (d e : BitVec 256) (i j : Instr), s.kvalid = true → (i, j) ∈ [(.enc, .dec), (.dec, .enc)] →
    ∃ t, perform (encode i) d s = .next t ∧ t.rspErr = .ok ∧
      ((∀ k < 16, dinByte e k = doutByte t.rspData k) →
        ∃ u, perform (encode j) e t = .next u ∧ u.rspErr = .ok ∧ ∀ k < 16, doutByte u.rspData k = dinByte d k)

/-- R205: the response of `ENC` and of `DEC` depends on the ExpandedKey and the block presented, and on nothing else. -/
def Obligations.BlockIndependence : Prop :=
  ∀ (s t : State) (i : Instr), i = .enc ∨ i = .dec → s.SameKey t → (∀ k < 16, dinByte t.din k = dinByte s.din k) →
    ∃ s' t', exec i s = .next s' ∧ exec i t = .next t' ∧ t'.rspErr = s'.rspErr ∧ t'.rspData = s'.rspData

/-- R85, first part: `DIN` bytes a command does not use are ignored, whatever their value. -/
def Obligations.UnusedDataIsIgnored : Prop :=
  ∀ (s : State) (i : Instr) (d : BitVec 256), (∀ k < i.dinUsed, dinByte d k = dinByte s.din k) →
    ∃ t, exec i s = .next t ∧ exec i { s with din := d } = .next { t with din := d }

/-! ## Rules about the whole machine -/

/-- R26, R28, R292: from a core with an idle sequencer, a step changes `W`, `KSEL` or `KVALID` only by reset or by accepting a
`KEYEXP` that passes its checks, and then `KVALID` is 1. -/
def Obligations.KeyChangedOnlyByKeyexpOrReset : Prop :=
  ∀ s t : State, s.SequencerIdle → step s = .next t → ¬ s.SameKey t →
    s.pins.rst = true ∨
    (s.cmdReady = true ∧ s.pins.cmdValid = true ∧ t.kvalid = true ∧ t.rspErr = .ok ∧
      ∃ ksel klen, decode s.pins.cmdWord = .ok (.keyexp ksel klen) ∧ ksel = t.ksel.code ∧ klen = 4 * t.ksel.nk)

/-- R23: `KEYEXP`, `RDRK`, `GFMUL` and `RDSTATE` never write `S`; a command that does write it has succeeded. -/
def Obligations.StateWrittenOnlyByItsCommands : Prop :=
  ∀ (i : Instr) (s t : State), exec i s = .next t → t.S ≠ s.S →
    t.rspErr = .ok ∧ (∀ ksel klen, i ≠ .keyexp ksel klen) ∧ (∀ round, i ≠ .rdrk round) ∧ i ≠ .gfmul ∧ i ≠ .rdstate

/-- R36, R257, R295: with the sequencer idle and no reset: a response not taken is held, and a command presented meanwhile is not
accepted; a response taken is delivered, once, and the core is ready again; the idle core keeps all state while it waits. That it
also holds `rsp_err` and `rsp_data` while `rsp_valid = 0` is the model's (log entry 5), as is one row of pins a step (log entry
2). -/
def Obligations.PortHandshake : Prop :=
  ∀ (s : State) (p : Pins) (rest : List Pins), s.host = p :: rest → p.rst = false → s.SequencerIdle →
    (s.rspValid = true → p.rspReady = false → step s = .next { s with host := rest }) ∧
    (s.rspValid = true → p.rspReady = true → ∃ t, step s = .next t ∧ t.host = rest ∧ t.cmdReady = true ∧
      t.delivered = s.delivered ++ [⟨s.rspErr, s.rspData⟩] ∧ s.SameArch t) ∧
    (s.rspValid = false → p.cmdValid = false → step s = .next { s with host := rest }) ∧
    (s.rspValid = false → p.cmdValid = true → ∃ t, step s = .next t ∧ t.host = rest ∧ t.rspValid = true ∧ t.cmdReady = false ∧
      t.delivered = s.delivered ∧ t.cmdWord = p.cmdWord ∧ t.din = p.cmdData)

/-- R36, R58, R298: a list of commands, each presented and its response taken, is answered one for one, in order, each command
seeing the whole effect of the ones before it. -/
def Obligations.RunAnswersEveryCommandInOrder : Prop :=
  ∀ (cs : List (BitVec 16 × BitVec 256)) (s : State), s.cmdReady = true →
    ∃ t u, Host.Core.run Sys2Proof.core (2 * cs.length) (s.withHost (presentAll cs)) = .next t ∧ t.cmdReady = true ∧
      t.host = [] ∧ t.delivered = s.delivered ++ responsesOf cs s ∧ (responsesOf cs s).length = cs.length ∧
      performAll cs s = .next u ∧ u.SameArch t

/-- R203, R32: started from idle with a key, the sequencer runs `ENC` and `DEC` stage by stage, `Nr + 1` stages, to exactly the
state `exec` gives. The numbering of `RND` is the model's (log entry 6). -/
def Obligations.SequencerRunsTheCipher : Prop :=
  ∀ (s : State) (i : Instr), i = .enc ∨ i = .dec → decode s.cmdWord = .ok i → s.SequencerIdle → s.kvalid = true →
    s.host = [] → Host.Core.run Sys2Proof.core (s.ksel.nr + 1) s.startCipher = exec i s

/-- R147 (e), R32: started from idle, the sequencer runs `KEYEXP` word by word from `Nk` to `4*(Nr+1)-1`, to exactly the state
`exec` gives. How `W` is filled on the way is the model's (log entry 7). -/
def Obligations.SequencerRunsTheKeySchedule : Prop :=
  ∀ (s : State) (k : KeySize), decode s.cmdWord = .ok (.keyexp k.code (4 * k.nk)) → s.SequencerIdle → s.host = [] →
    Host.Core.run Sys2Proof.core (k.words - k.nk) (s.startKey k) = exec (.keyexp k.code (4 * k.nk)) s

/-! ## The host's text layer -/

/-- R227, R222, R224: with a key loaded and the core ready, `decrypt(encrypt(m))` is `m` with its trailing whitespace removed, and
`m` itself if it ends in none (characters of one byte; `WS_SET` any set that holds the space, log entry 14). -/
def Obligations.TextRoundTrip : Prop :=
  ∀ (s : State) (ws : List Byte) (m : List Char), s.cmdReady = true → s.kvalid = true → (∀ c ∈ m, c.toNat ≤ 255) → 0x20 ∈ ws →
    ∃ t u hex, encryptText m s = .ok (t, hex) ∧
      decryptText ws hex t = .ok (u, (trimEnd ws (m.map byteOfChar)).map charOfByte) ∧
      ((∀ c, m.getLast? = some c → byteOfChar c ∉ ws) → decryptText ws hex t = .ok (u, m))

/-- R222, R223: a call of `encrypt` that completes gives 32 characters per block of 16, rounding the length up. -/
def Obligations.EncryptedTextLength : Prop :=
  ∀ (s t : State) (m hex : List Char), encryptText m s = .ok (t, hex) →
    hex.length = 32 * ((m.length + 15) / 16) ∧ ∀ c ∈ hex, c ∈ "0123456789abcdef".toList

/-- R225: `decrypt` fails with MalformedCiphertext exactly when its input is no multiple of 32 characters or holds a character that
is no hex digit, whatever the core's state. -/
def Obligations.MalformedCiphertextExactly : Prop :=
  ∀ (s : State) (ws : List Byte) (hex : List Char),
    decryptText ws hex s = .error (.code .malformedCiphertext) ↔
      hex.length % 32 ≠ 0 ∨ ∃ c ∈ hex, c ∉ "0123456789abcdefABCDEF".toList

/-- R220: construction from the ready core: an unsupported size and a length that does not match fail with their errors; else the
instance holds exactly the key supplied. -/
def Obligations.ConstructionChecksTheKey : Prop :=
  ∀ (s : State) (bits : Nat) (key : List Byte), s.cmdReady = true →
    (bits ∉ [128, 192, 256] → constructText bits key s = .error (.code .invalidKeySize)) ∧
    (bits ∈ [128, 192, 256] → 8 * key.length ≠ bits → constructText bits key s = .error (.code .invalidKeyMaterial)) ∧
    (bits ∈ [128, 192, 256] → 8 * key.length = bits →
      ∃ t, constructText bits key s = .ok t ∧ t.kvalid = true ∧ t.cipherKey = key ∧ t.S = s.S ∧ t.cmdReady = true)

/-! ## No trace of an error -/

/-- R246: the delivery of an error leaves no error code and no command word. That the word of a command that succeeded is cleared
at its delivery too, as the first clause says, is the model's choice and not R246's (log entry 5). A command that fails at a ready
core without such a trace, its response taken in the next row, leaves exactly the core as it was, but for `DIN` and zero
`rsp_data` (log entry 5): only the list of responses, which is the host's (log entries 2, 3), tells that there was an error. -/
def Obligations.DeliveredErrorLeavesNoTrace : Prop :=
  (∀ (s : State) (p : Pins) (rest : List Pins), s.host = p :: rest → p.rst = false → p.rspReady = true → s.rspValid = true →
    s.inFlight = false → ∃ t, step s = .next t ∧ t.rspErrPins = 0 ∧ t.cmdWord = 0 ∧ t.NoErrorTrace) ∧
  ∀ (w : BitVec 16) (d : BitVec 256) (s : State), s.cmdReady = true → s.NoErrorTrace →
    ∃ t u, perform w d s = .next t ∧ Host.Core.run Sys2Proof.core 2 (s.withHost (presentAll [(w, d)])) = .next u ∧
      (t.rspErr ≠ .ok →
        u = { s with host := [], din := d, rspData := 0, delivered := s.delivered ++ [⟨t.rspErr, 0⟩] })
end

