-- ==== Sys2Proof/Laws/Decode.lean ====
section
/-! SUPPORT. The fields of a command word, and what decoding answers opcode by opcode. -/

namespace Sys2Proof

/-- A word is its opcode and its argument (R80). -/
theorem word_eq_fields (w : BitVec 16) : opcodeField w ++ argField w = w := by
  apply BitVec.eq_of_getLsbD_eq
  intro i hi
  simp only [BitVec.getLsbD_append, opcodeField, argField, BitVec.getLsbD_extractLsb']
  by_cases h : i < 8
  · simp [h]
  · have h1 : i - 8 < 8 := by omega
    have h2 : 8 + (i - 8) = i := by omega
    simp [h, h1, h2]

/-- A claim about all words is a claim about all opcodes and arguments. -/
theorem forall_word {P : BitVec 16 → Prop} (h : ∀ opcode arg : BitVec 8, P (opcode ++ arg)) (w : BitVec 16) : P w := by
  rw [← word_eq_fields w]
  exact h _ _

/-- The opcode field of a word put together from its fields. -/
@[simp] theorem opcodeField_append (opcode arg : BitVec 8) : opcodeField (opcode ++ arg : BitVec 16) = opcode := by
  apply BitVec.eq_of_getLsbD_eq
  intro i hi
  simp only [opcodeField, BitVec.getLsbD_extractLsb', BitVec.getLsbD_append]
  simp [hi]

/-- The argument field of a word put together from its fields. -/
@[simp] theorem argField_append (opcode arg : BitVec 8) : argField (opcode ++ arg : BitVec 16) = arg := by
  apply BitVec.eq_of_getLsbD_eq
  intro i hi
  simp only [argField, BitVec.getLsbD_extractLsb', BitVec.getLsbD_append]
  simp [hi]

/-- The operand fields of a decoded word are in range (R83). -/
theorem roundField_lt (arg : BitVec 8) : roundField arg < 16 := (arg.extractLsb' 0 4).isLt

theorem klenField_lt (arg : BitVec 8) : klenField arg < 64 := (arg.extractLsb' 0 6).isLt

/-- Decoding a word of format Z depends on the opcode table only (R86). -/
theorem decodeFormatZ_eq_ok_iff {opcode arg : BitVec 8} {i : Instr} :
    decodeFormatZ opcode arg = .ok i ↔ formatZTable.lookup opcode = some i ∧ arg = 0 := by
  unfold decodeFormatZ
  cases h : formatZTable.lookup opcode with
  | none => simp
  | some j =>
    by_cases ha : arg = 0#8 <;> simp [ha]

/-- What a word can decode to: one of the three formats (R89). -/
theorem decode_eq_ok_cases {w : BitVec 16} {i : Instr} (h : decode w = .ok i) :
    (opcodeField w = 0x10 ∧ i = .keyexp (kselField (argField w)) (klenField (argField w))) ∨
    (opcodeField w = 0x11 ∧ zeroField (argField w) = 0 ∧ i = .rdrk (roundField (argField w))) ∨
    (opcodeField w = 0x26 ∧ zeroField (argField w) = 0 ∧ i = .addroundkey (roundField (argField w))) ∨
    (formatZTable.lookup (opcodeField w) = some i ∧ argField w = 0) := by
  unfold decode at h
  split at h
  · exact .inl ⟨by assumption, by simpa using h.symm⟩
  · split at h
    · unfold decodeFormatR at h
      split at h
      · exact .inr (.inl ⟨by assumption, by assumption, by simpa using h.symm⟩)
      · simp at h
    · split at h
      · unfold decodeFormatR at h
        split at h
        · exact .inr (.inr (.inl ⟨by assumption, by assumption, by simpa using h.symm⟩))
        · simp at h
      · exact .inr (.inr (.inr (decodeFormatZ_eq_ok_iff.mp h)))

end Sys2Proof
end

