-- ==== Sys2Proof/Laws/Operands.lean ====
section
/-! SUPPORT. The laws of the operand forms: State cells, blocks, bus bytes. -/

namespace Sys2Proof

@[simp] theorem Word.byte_ofFn (f : Fin 4 → Byte) (j : Fin 4) : (Word.ofFn f).byte j = f j := by
  fin_cases j <;> rfl

theorem Word.ext_byte {a b : Word} (h : ∀ j, a.byte j = b.byte j) : a = b := by
  have h0 := h 0; have h1 := h 1; have h2 := h 2; have h3 := h 3
  cases a; cases b; simp_all [Word.byte]

@[simp] theorem Word.byte_xor (a b : Word) (j : Fin 4) : (a.xor b).byte j = a.byte j ^^^ b.byte j := by
  fin_cases j <;> rfl

@[simp] theorem Word.byte_zero (j : Fin 4) : Word.zero.byte j = 0 := by
  fin_cases j <;> rfl

@[simp] theorem Mat4.get_ofFn (f : Fin 4 → Fin 4 → Byte) (r c : Fin 4) : (Mat4.ofFn f).get r c = f r c := by
  fin_cases c <;> fin_cases r <;> rfl

@[simp] theorem Mat4.get_zero (r c : Fin 4) : Mat4.zero.get r c = 0 := by
  fin_cases c <;> exact Word.byte_zero r

/-- Two States with equal bytes are equal. -/
theorem Mat4.ext_get {a b : Mat4} (h : ∀ r c, a.get r c = b.get r c) : a = b := by
  obtain ⟨a0, a1, a2, a3⟩ := a
  obtain ⟨b0, b1, b2, b3⟩ := b
  congr 1
  · exact Word.ext_byte fun r => h r 0
  · exact Word.ext_byte fun r => h r 1
  · exact Word.ext_byte fun r => h r 2
  · exact Word.ext_byte fun r => h r 3

@[simp] theorem Mat4.get_ofBlock (b : Nat → Byte) (r c : Fin 4) : (Mat4.ofBlock b).get r c = b (r.val + 4 * c.val) := by
  simp [Mat4.ofBlock]

/-- The cell `S[r][c]` is block byte `r + 4*c` (R190). -/
theorem Mat4.blockByte_index (m : Mat4) (r c : Fin 4) : m.blockByte (r.val + 4 * c.val) = m.get r c := by
  have hr := r.isLt
  have hc := c.isLt
  have h1 : (r.val + 4 * c.val) % 4 % 4 = r.val := by omega
  have h2 : (r.val + 4 * c.val) / 4 % 4 = c.val := by omega
  unfold Mat4.blockByte
  congr 1
  · exact Fin.ext h1
  · exact Fin.ext h2

/-- Block byte `k` of the State of a block is `B[k]` (R190). -/
theorem Mat4.blockByte_ofBlock (b : Nat → Byte) {k : Nat} (hk : k < 16) : (Mat4.ofBlock b).blockByte k = b k := by
  have h := Mat4.blockByte_index (Mat4.ofBlock b) ⟨k % 4, by omega⟩ ⟨k / 4, by omega⟩
  have e : k % 4 + 4 * (k / 4) = k := by omega
  simpa [e] using h

/-- The State of a State's own block is the State. -/
theorem Mat4.ofBlock_blockByte (m : Mat4) : Mat4.ofBlock m.blockByte = m :=
  Mat4.ext_get fun r c => by rw [Mat4.get_ofBlock, Mat4.blockByte_index]

@[simp] theorem Mat4.block_length (m : Mat4) : m.block.length = 16 := by simp [Mat4.block]

theorem Mat4.block_getD (m : Mat4) {k : Nat} (hk : k < 16) : m.block.getD k 0 = m.blockByte k := by
  simp [Mat4.block, List.getD, hk]

/-- Byte `k` of packed bytes, counted from the most significant. -/
theorem packBytes_extract (f : Nat → Byte) (n k : Nat) (hk : k < n) :
    (packBytes f n).extractLsb' (8 * (n - 1 - k)) 8 = f k := by
  induction n with
  | zero => omega
  | succ n ih =>
    rw [packBytes]
    apply BitVec.eq_of_getLsbD_eq
    intro i hi
    by_cases h : k = n
    · subst h
      simp [BitVec.getLsbD_append, hi]
    · have hk' : k < n := by omega
      have e : 8 * (n - k) + i - 8 = 8 * (n - 1 - k) + i := by omega
      have hlt : ¬ 8 * (n - k) + i < 8 := by omega
      rw [← ih hk']
      simp [BitVec.getLsbD_append, hi, hlt, e]

/-- `DOUT[k]` of a response is byte `k` given, or zero past their end (R17, R53). -/
theorem doutByte_packDout (b : List Byte) {k : Nat} (hk : k < 16) : doutByte (packDout b) k = b.getD k 0 := by
  have h := packBytes_extract (fun j => b.getD j 0) 16 k hk
  have e : 8 * (16 - 1 - k) = 120 - 8 * k := by omega
  rw [e] at h
  exact h

/-- `DIN[k]` of an assembled command is byte `k` given, or zero past their end (R53, R90). -/
theorem dinByte_packDin (b : List Byte) {k : Nat} (hk : k < 32) : dinByte (packDin b) k = b.getD k 0 := by
  have h := packBytes_extract (fun j => b.getD j 0) 32 k hk
  have e : 8 * (32 - 1 - k) = 248 - 8 * k := by omega
  rw [e] at h
  exact h

@[simp] theorem doutByte_zero (k : Nat) : doutByte 0#128 k = 0#8 := by
  simp [doutByte]

/-- The State of the block in `DIN` depends on `DIN[0..15]` only (R191). -/
theorem dinBlock_congr {d e : BitVec 256} (h : ∀ k < 16, dinByte d k = dinByte e k) : dinBlock d = dinBlock e :=
  Mat4.ext_get fun r c => by
    have := r.isLt
    have := c.isLt
    simpa [dinBlock] using h _ (by omega)

end Sys2Proof
end

