-- ==== Sys2Proof/Laws/State.lean ====
section
/-! SUPPORT. One lemma per field per update of the state, true by rfl: no later proof unfolds a record update. -/

namespace Sys2Proof.Machine

@[simp] theorem State.setS_S (s : State) (m : Mat4) : (s.setS m).S = m := rfl
@[simp] theorem State.setS_W (s : State) (m : Mat4) : (s.setS m).W = s.W := rfl
@[simp] theorem State.setS_ksel (s : State) (m : Mat4) : (s.setS m).ksel = s.ksel := rfl
@[simp] theorem State.setS_kvalid (s : State) (m : Mat4) : (s.setS m).kvalid = s.kvalid := rfl
@[simp] theorem State.setS_phase (s : State) (m : Mat4) : (s.setS m).phase = s.phase := rfl
@[simp] theorem State.setS_rnd (s : State) (m : Mat4) : (s.setS m).rnd = s.rnd := rfl
@[simp] theorem State.setS_ki (s : State) (m : Mat4) : (s.setS m).ki = s.ki := rfl
@[simp] theorem State.setS_cmdWord (s : State) (m : Mat4) : (s.setS m).cmdWord = s.cmdWord := rfl
@[simp] theorem State.setS_din (s : State) (m : Mat4) : (s.setS m).din = s.din := rfl
@[simp] theorem State.setS_rspValid (s : State) (m : Mat4) : (s.setS m).rspValid = s.rspValid := rfl
@[simp] theorem State.setS_rspErr (s : State) (m : Mat4) : (s.setS m).rspErr = s.rspErr := rfl
@[simp] theorem State.setS_rspData (s : State) (m : Mat4) : (s.setS m).rspData = s.rspData := rfl
@[simp] theorem State.setS_host (s : State) (m : Mat4) : (s.setS m).host = s.host := rfl
@[simp] theorem State.setS_delivered (s : State) (m : Mat4) : (s.setS m).delivered = s.delivered := rfl

@[simp] theorem State.respond_S (s : State) (b : List Byte) : (s.respond b).S = s.S := rfl
@[simp] theorem State.respond_W (s : State) (b : List Byte) : (s.respond b).W = s.W := rfl
@[simp] theorem State.respond_ksel (s : State) (b : List Byte) : (s.respond b).ksel = s.ksel := rfl
@[simp] theorem State.respond_kvalid (s : State) (b : List Byte) : (s.respond b).kvalid = s.kvalid := rfl
@[simp] theorem State.respond_phase (s : State) (b : List Byte) : (s.respond b).phase = s.phase := rfl
@[simp] theorem State.respond_rnd (s : State) (b : List Byte) : (s.respond b).rnd = s.rnd := rfl
@[simp] theorem State.respond_ki (s : State) (b : List Byte) : (s.respond b).ki = s.ki := rfl
@[simp] theorem State.respond_cmdWord (s : State) (b : List Byte) : (s.respond b).cmdWord = s.cmdWord := rfl
@[simp] theorem State.respond_din (s : State) (b : List Byte) : (s.respond b).din = s.din := rfl
@[simp] theorem State.respond_rspValid (s : State) (b : List Byte) : (s.respond b).rspValid = true := rfl
@[simp] theorem State.respond_rspErr (s : State) (b : List Byte) : (s.respond b).rspErr = .ok := rfl
@[simp] theorem State.respond_rspData (s : State) (b : List Byte) : (s.respond b).rspData = packDout b := rfl
@[simp] theorem State.respond_host (s : State) (b : List Byte) : (s.respond b).host = s.host := rfl
@[simp] theorem State.respond_delivered (s : State) (b : List Byte) : (s.respond b).delivered = s.delivered := rfl

@[simp] theorem State.raise_S (s : State) (e : ErrCode) : (s.raise e).S = s.S := rfl
@[simp] theorem State.raise_W (s : State) (e : ErrCode) : (s.raise e).W = s.W := rfl
@[simp] theorem State.raise_ksel (s : State) (e : ErrCode) : (s.raise e).ksel = s.ksel := rfl
@[simp] theorem State.raise_kvalid (s : State) (e : ErrCode) : (s.raise e).kvalid = s.kvalid := rfl
@[simp] theorem State.raise_phase (s : State) (e : ErrCode) : (s.raise e).phase = s.phase := rfl
@[simp] theorem State.raise_rnd (s : State) (e : ErrCode) : (s.raise e).rnd = s.rnd := rfl
@[simp] theorem State.raise_ki (s : State) (e : ErrCode) : (s.raise e).ki = s.ki := rfl
@[simp] theorem State.raise_cmdWord (s : State) (e : ErrCode) : (s.raise e).cmdWord = s.cmdWord := rfl
@[simp] theorem State.raise_din (s : State) (e : ErrCode) : (s.raise e).din = s.din := rfl
@[simp] theorem State.raise_rspValid (s : State) (e : ErrCode) : (s.raise e).rspValid = true := rfl
@[simp] theorem State.raise_rspErr (s : State) (e : ErrCode) : (s.raise e).rspErr = e := rfl
@[simp] theorem State.raise_rspData (s : State) (e : ErrCode) : (s.raise e).rspData = 0 := rfl
@[simp] theorem State.raise_host (s : State) (e : ErrCode) : (s.raise e).host = s.host := rfl
@[simp] theorem State.raise_delivered (s : State) (e : ErrCode) : (s.raise e).delivered = s.delivered := rfl

@[simp] theorem State.loadKey_S (s : State) (k : KeySize) (w : Vector Word 60) : (s.loadKey k w).S = s.S := rfl
@[simp] theorem State.loadKey_W (s : State) (k : KeySize) (w : Vector Word 60) : (s.loadKey k w).W = w := rfl
@[simp] theorem State.loadKey_ksel (s : State) (k : KeySize) (w : Vector Word 60) : (s.loadKey k w).ksel = k := rfl
@[simp] theorem State.loadKey_kvalid (s : State) (k : KeySize) (w : Vector Word 60) : (s.loadKey k w).kvalid = true := rfl
@[simp] theorem State.loadKey_phase (s : State) (k : KeySize) (w : Vector Word 60) : (s.loadKey k w).phase = s.phase := rfl
@[simp] theorem State.loadKey_rnd (s : State) (k : KeySize) (w : Vector Word 60) : (s.loadKey k w).rnd = s.rnd := rfl
@[simp] theorem State.loadKey_ki (s : State) (k : KeySize) (w : Vector Word 60) : (s.loadKey k w).ki = s.ki := rfl
@[simp] theorem State.loadKey_cmdWord (s : State) (k : KeySize) (w : Vector Word 60) : (s.loadKey k w).cmdWord = s.cmdWord := rfl
@[simp] theorem State.loadKey_din (s : State) (k : KeySize) (w : Vector Word 60) : (s.loadKey k w).din = s.din := rfl
@[simp] theorem State.loadKey_rspValid (s : State) (k : KeySize) (w : Vector Word 60) : (s.loadKey k w).rspValid = s.rspValid := rfl
@[simp] theorem State.loadKey_rspErr (s : State) (k : KeySize) (w : Vector Word 60) : (s.loadKey k w).rspErr = s.rspErr := rfl
@[simp] theorem State.loadKey_rspData (s : State) (k : KeySize) (w : Vector Word 60) : (s.loadKey k w).rspData = s.rspData := rfl
@[simp] theorem State.loadKey_host (s : State) (k : KeySize) (w : Vector Word 60) : (s.loadKey k w).host = s.host := rfl
@[simp] theorem State.loadKey_delivered (s : State) (k : KeySize) (w : Vector Word 60) : (s.loadKey k w).delivered = s.delivered := rfl

@[simp] theorem State.nextInput_S (s : State) : s.nextInput.S = s.S := rfl
@[simp] theorem State.nextInput_W (s : State) : s.nextInput.W = s.W := rfl
@[simp] theorem State.nextInput_ksel (s : State) : s.nextInput.ksel = s.ksel := rfl
@[simp] theorem State.nextInput_kvalid (s : State) : s.nextInput.kvalid = s.kvalid := rfl
@[simp] theorem State.nextInput_phase (s : State) : s.nextInput.phase = s.phase := rfl
@[simp] theorem State.nextInput_rnd (s : State) : s.nextInput.rnd = s.rnd := rfl
@[simp] theorem State.nextInput_ki (s : State) : s.nextInput.ki = s.ki := rfl
@[simp] theorem State.nextInput_cmdWord (s : State) : s.nextInput.cmdWord = s.cmdWord := rfl
@[simp] theorem State.nextInput_din (s : State) : s.nextInput.din = s.din := rfl
@[simp] theorem State.nextInput_rspValid (s : State) : s.nextInput.rspValid = s.rspValid := rfl
@[simp] theorem State.nextInput_rspErr (s : State) : s.nextInput.rspErr = s.rspErr := rfl
@[simp] theorem State.nextInput_rspData (s : State) : s.nextInput.rspData = s.rspData := rfl
@[simp] theorem State.nextInput_host (s : State) : s.nextInput.host = s.host.tail := rfl
@[simp] theorem State.nextInput_delivered (s : State) : s.nextInput.delivered = s.delivered := rfl

@[simp] theorem State.withHost_S (s : State) (rows : List Pins) : (s.withHost rows).S = s.S := rfl
@[simp] theorem State.withHost_W (s : State) (rows : List Pins) : (s.withHost rows).W = s.W := rfl
@[simp] theorem State.withHost_ksel (s : State) (rows : List Pins) : (s.withHost rows).ksel = s.ksel := rfl
@[simp] theorem State.withHost_kvalid (s : State) (rows : List Pins) : (s.withHost rows).kvalid = s.kvalid := rfl
@[simp] theorem State.withHost_phase (s : State) (rows : List Pins) : (s.withHost rows).phase = s.phase := rfl
@[simp] theorem State.withHost_rnd (s : State) (rows : List Pins) : (s.withHost rows).rnd = s.rnd := rfl
@[simp] theorem State.withHost_ki (s : State) (rows : List Pins) : (s.withHost rows).ki = s.ki := rfl
@[simp] theorem State.withHost_cmdWord (s : State) (rows : List Pins) : (s.withHost rows).cmdWord = s.cmdWord := rfl
@[simp] theorem State.withHost_din (s : State) (rows : List Pins) : (s.withHost rows).din = s.din := rfl
@[simp] theorem State.withHost_rspValid (s : State) (rows : List Pins) : (s.withHost rows).rspValid = s.rspValid := rfl
@[simp] theorem State.withHost_rspErr (s : State) (rows : List Pins) : (s.withHost rows).rspErr = s.rspErr := rfl
@[simp] theorem State.withHost_rspData (s : State) (rows : List Pins) : (s.withHost rows).rspData = s.rspData := rfl
@[simp] theorem State.withHost_host (s : State) (rows : List Pins) : (s.withHost rows).host = rows := rfl
@[simp] theorem State.withHost_delivered (s : State) (rows : List Pins) : (s.withHost rows).delivered = s.delivered := rfl

@[simp] theorem State.sample_S (s : State) (p : Pins) : (s.sample p).S = s.S := rfl
@[simp] theorem State.sample_W (s : State) (p : Pins) : (s.sample p).W = s.W := rfl
@[simp] theorem State.sample_ksel (s : State) (p : Pins) : (s.sample p).ksel = s.ksel := rfl
@[simp] theorem State.sample_kvalid (s : State) (p : Pins) : (s.sample p).kvalid = s.kvalid := rfl
@[simp] theorem State.sample_phase (s : State) (p : Pins) : (s.sample p).phase = s.phase := rfl
@[simp] theorem State.sample_rnd (s : State) (p : Pins) : (s.sample p).rnd = s.rnd := rfl
@[simp] theorem State.sample_ki (s : State) (p : Pins) : (s.sample p).ki = s.ki := rfl
@[simp] theorem State.sample_cmdWord (s : State) (p : Pins) : (s.sample p).cmdWord = p.cmdWord := rfl
@[simp] theorem State.sample_din (s : State) (p : Pins) : (s.sample p).din = p.cmdData := rfl
@[simp] theorem State.sample_rspValid (s : State) (p : Pins) : (s.sample p).rspValid = s.rspValid := rfl
@[simp] theorem State.sample_rspErr (s : State) (p : Pins) : (s.sample p).rspErr = s.rspErr := rfl
@[simp] theorem State.sample_rspData (s : State) (p : Pins) : (s.sample p).rspData = s.rspData := rfl
@[simp] theorem State.sample_host (s : State) (p : Pins) : (s.sample p).host = s.host := rfl
@[simp] theorem State.sample_delivered (s : State) (p : Pins) : (s.sample p).delivered = s.delivered := rfl

@[simp] theorem State.deliver_S (s : State) : s.deliver.S = s.S := rfl
@[simp] theorem State.deliver_W (s : State) : s.deliver.W = s.W := rfl
@[simp] theorem State.deliver_ksel (s : State) : s.deliver.ksel = s.ksel := rfl
@[simp] theorem State.deliver_kvalid (s : State) : s.deliver.kvalid = s.kvalid := rfl
@[simp] theorem State.deliver_phase (s : State) : s.deliver.phase = s.phase := rfl
@[simp] theorem State.deliver_rnd (s : State) : s.deliver.rnd = s.rnd := rfl
@[simp] theorem State.deliver_ki (s : State) : s.deliver.ki = s.ki := rfl
@[simp] theorem State.deliver_cmdWord (s : State) : s.deliver.cmdWord = 0 := rfl
@[simp] theorem State.deliver_din (s : State) : s.deliver.din = s.din := rfl
@[simp] theorem State.deliver_rspValid (s : State) : s.deliver.rspValid = false := rfl
@[simp] theorem State.deliver_rspErr (s : State) : s.deliver.rspErr = .ok := rfl
@[simp] theorem State.deliver_rspData (s : State) : s.deliver.rspData = s.rspData := rfl
@[simp] theorem State.deliver_host (s : State) : s.deliver.host = s.host := rfl
@[simp] theorem State.deliver_delivered (s : State) : s.deliver.delivered = s.delivered ++ [s.response] := rfl

@[simp] theorem State.finishBlock_S (s : State) (m : Mat4) : (s.finishBlock m).S = m := rfl
@[simp] theorem State.finishBlock_W (s : State) (m : Mat4) : (s.finishBlock m).W = s.W := rfl
@[simp] theorem State.finishBlock_ksel (s : State) (m : Mat4) : (s.finishBlock m).ksel = s.ksel := rfl
@[simp] theorem State.finishBlock_kvalid (s : State) (m : Mat4) : (s.finishBlock m).kvalid = s.kvalid := rfl
@[simp] theorem State.finishBlock_phase (s : State) (m : Mat4) : (s.finishBlock m).phase = s.phase := rfl
@[simp] theorem State.finishBlock_rnd (s : State) (m : Mat4) : (s.finishBlock m).rnd = s.rnd := rfl
@[simp] theorem State.finishBlock_ki (s : State) (m : Mat4) : (s.finishBlock m).ki = s.ki := rfl
@[simp] theorem State.finishBlock_cmdWord (s : State) (m : Mat4) : (s.finishBlock m).cmdWord = s.cmdWord := rfl
@[simp] theorem State.finishBlock_din (s : State) (m : Mat4) : (s.finishBlock m).din = s.din := rfl
@[simp] theorem State.finishBlock_rspValid (s : State) (m : Mat4) : (s.finishBlock m).rspValid = true := rfl
@[simp] theorem State.finishBlock_rspErr (s : State) (m : Mat4) : (s.finishBlock m).rspErr = .ok := rfl
@[simp] theorem State.finishBlock_rspData (s : State) (m : Mat4) : (s.finishBlock m).rspData = packDout m.block := rfl
@[simp] theorem State.finishBlock_host (s : State) (m : Mat4) : (s.finishBlock m).host = s.host := rfl
@[simp] theorem State.finishBlock_delivered (s : State) (m : Mat4) : (s.finishBlock m).delivered = s.delivered := rfl

@[simp] theorem State.presentWord_S (s : State) (w : BitVec 16) : (s.presentWord w).S = s.S := rfl
@[simp] theorem State.presentWord_W (s : State) (w : BitVec 16) : (s.presentWord w).W = s.W := rfl
@[simp] theorem State.presentWord_ksel (s : State) (w : BitVec 16) : (s.presentWord w).ksel = s.ksel := rfl
@[simp] theorem State.presentWord_kvalid (s : State) (w : BitVec 16) : (s.presentWord w).kvalid = s.kvalid := rfl
@[simp] theorem State.presentWord_phase (s : State) (w : BitVec 16) : (s.presentWord w).phase = .idle := rfl
@[simp] theorem State.presentWord_rnd (s : State) (w : BitVec 16) : (s.presentWord w).rnd = s.rnd := rfl
@[simp] theorem State.presentWord_ki (s : State) (w : BitVec 16) : (s.presentWord w).ki = 0 := rfl
@[simp] theorem State.presentWord_cmdWord (s : State) (w : BitVec 16) : (s.presentWord w).cmdWord = s.cmdWord := rfl
@[simp] theorem State.presentWord_din (s : State) (w : BitVec 16) : (s.presentWord w).din = s.din := rfl
@[simp] theorem State.presentWord_rspValid (s : State) (w : BitVec 16) : (s.presentWord w).rspValid = false := rfl
@[simp] theorem State.presentWord_rspErr (s : State) (w : BitVec 16) : (s.presentWord w).rspErr = s.rspErr := rfl
@[simp] theorem State.presentWord_rspData (s : State) (w : BitVec 16) : (s.presentWord w).rspData = s.rspData := rfl
@[simp] theorem State.presentWord_host (s : State) (w : BitVec 16) : (s.presentWord w).host = Pins.command w 0 :: s.host := rfl
@[simp] theorem State.presentWord_delivered (s : State) (w : BitVec 16) : (s.presentWord w).delivered = s.delivered := rfl

@[simp] theorem State.reset_S : State.reset.S = Mat4.zero := rfl
@[simp] theorem State.reset_W : State.reset.W = Vector.replicate 60 Word.zero := rfl
@[simp] theorem State.reset_ksel : State.reset.ksel = .k128 := rfl
@[simp] theorem State.reset_kvalid : State.reset.kvalid = false := rfl
@[simp] theorem State.reset_phase : State.reset.phase = .idle := rfl
@[simp] theorem State.reset_rnd : State.reset.rnd = 0 := rfl
@[simp] theorem State.reset_ki : State.reset.ki = 0 := rfl
@[simp] theorem State.reset_cmdWord : State.reset.cmdWord = 0 := rfl
@[simp] theorem State.reset_din : State.reset.din = 0 := rfl
@[simp] theorem State.reset_rspValid : State.reset.rspValid = false := rfl
@[simp] theorem State.reset_rspErr : State.reset.rspErr = .ok := rfl
@[simp] theorem State.reset_rspData : State.reset.rspData = 0 := rfl
@[simp] theorem State.reset_host : State.reset.host = [] := rfl
@[simp] theorem State.reset_delivered : State.reset.delivered = [] := rfl

@[simp] theorem State.applyReset_S (s : State) : s.applyReset.S = Mat4.zero := rfl
@[simp] theorem State.applyReset_W (s : State) : s.applyReset.W = Vector.replicate 60 Word.zero := rfl
@[simp] theorem State.applyReset_ksel (s : State) : s.applyReset.ksel = .k128 := rfl
@[simp] theorem State.applyReset_kvalid (s : State) : s.applyReset.kvalid = false := rfl
@[simp] theorem State.applyReset_phase (s : State) : s.applyReset.phase = .idle := rfl
@[simp] theorem State.applyReset_rnd (s : State) : s.applyReset.rnd = 0 := rfl
@[simp] theorem State.applyReset_ki (s : State) : s.applyReset.ki = 0 := rfl
@[simp] theorem State.applyReset_cmdWord (s : State) : s.applyReset.cmdWord = 0 := rfl
@[simp] theorem State.applyReset_din (s : State) : s.applyReset.din = 0 := rfl
@[simp] theorem State.applyReset_rspValid (s : State) : s.applyReset.rspValid = false := rfl
@[simp] theorem State.applyReset_rspErr (s : State) : s.applyReset.rspErr = .ok := rfl
@[simp] theorem State.applyReset_rspData (s : State) : s.applyReset.rspData = 0 := rfl
@[simp] theorem State.applyReset_host (s : State) : s.applyReset.host = s.host := rfl
@[simp] theorem State.applyReset_delivered (s : State) : s.applyReset.delivered = s.delivered := rfl

end Sys2Proof.Machine
end

