-- ==== Sys2Proof/Laws/Ops.lean ====
section
/-! SUPPORT. What each shared operation can do, said once. -/

namespace Sys2Proof

theorem KeySize.ofCode_eq_some_iff {c : BitVec 2} {k : KeySize} : KeySize.ofCode c = some k ↔ c = k.code := by
  revert c
  cases k <;> decide

@[simp] theorem KeySize.ofCode_code (k : KeySize) : KeySize.ofCode k.code = some k := by
  cases k <;> rfl

theorem KeySize.ofCode_eq_none_iff {c : BitVec 2} : KeySize.ofCode c = none ↔ c = 0b11 := by
  revert c
  decide

theorem KeySize.nk_pos (k : KeySize) : 0 < k.nk := by cases k <;> decide

theorem KeySize.nk_le_words (k : KeySize) : k.nk ≤ k.words := by cases k <;> decide

theorem KeySize.words_le (k : KeySize) : k.words ≤ 60 := by cases k <;> decide

end Sys2Proof

namespace Sys2Proof.Machine

/-- `respond` presents code 0 and the bytes given (R17). -/
theorem State.respond_dout (s : State) (b : List Byte) {k : Nat} (hk : k < 16) :
    doutByte (s.respond b).rspData k = b.getD k 0 :=
  doutByte_packDout b hk

/-- The presented block of a pipeline's result is the result (R196). -/
theorem State.finishBlock_dout (s : State) (m : Mat4) {k : Nat} (hk : k < 16) :
    doutByte (s.finishBlock m).rspData k = m.blockByte k := by
  rw [State.finishBlock_rspData, doutByte_packDout _ hk, Mat4.block_getD m hk]

/-- A round key's cell: byte `r` of word `4*round + c` (R178). -/
theorem State.roundKey_get (s : State) (round : Nat) (r c : Fin 4) :
    (s.roundKey round).get r c = (s.word (4 * round + c.val)).byte r := by
  fin_cases c <;> rfl

/-- A round key's byte in order: `W[4*round + c][j]` at `4*c + j` (R152). -/
theorem State.roundKeyBytes_getD (s : State) (round : Nat) (c j : Fin 4) :
    (s.roundKeyBytes round).getD (4 * c.val + j.val) 0 = (s.word (4 * round + c.val)).byte j := by
  fin_cases c <;> fin_cases j <;> rfl

/-- A read of `W` below 60 finds its word (R54). -/
theorem State.W_getElem? (s : State) {i : Nat} (h : i < 60) : s.W[i]? = some (s.word i) := by
  simp [State.word, h]

/-- A round key depends on `W` only. -/
theorem State.roundKey_congr {s t : State} (h : t.W = s.W) (round : Nat) : t.roundKey round = s.roundKey round := by
  simp [State.roundKey, State.word, h]

theorem State.keyError_eq_none_iff (s : State) : s.keyError = none ↔ s.kvalid = true := by
  unfold State.keyError
  cases s.kvalid <;> simp

theorem State.roundError_eq_none_iff (s : State) (round : Nat) :
    s.roundError round = none ↔ s.kvalid = true ∧ round ≤ s.ksel.nr := by
  unfold State.roundError
  cases s.kvalid <;> simp

/-- The errors of the round commands, in order (R248 (3)). -/
theorem State.roundError_cases (s : State) (round : Nat) :
    (s.kvalid = false ∧ s.roundError round = some .noKey) ∨
    (s.kvalid = true ∧ s.ksel.nr < round ∧ s.roundError round = some .roundOutOfRange) ∨
    (s.kvalid = true ∧ round ≤ s.ksel.nr ∧ s.roundError round = none) := by
  unfold State.roundError
  cases s.kvalid
  · simp
  · rcases Nat.lt_or_ge s.ksel.nr round with h | h
    · simp [h]
    · simp [h, Nat.not_lt.mpr h]

/-- The error of the block commands (R248 (4)). -/
theorem State.keyError_cases (s : State) :
    (s.kvalid = false ∧ s.keyError = some .noKey) ∨ (s.kvalid = true ∧ s.keyError = none) := by
  unfold State.keyError
  cases s.kvalid <;> simp

theorem keyexpCheck_eq_ok_iff {ksel : BitVec 2} {klen : Nat} {k : KeySize} :
    keyexpCheck ksel klen = .ok k ↔ ksel = k.code ∧ klen = 4 * k.nk := by
  unfold keyexpCheck
  cases h : KeySize.ofCode ksel with
  | none =>
    have : ksel ≠ k.code := by
      rintro rfl
      simp at h
    simp [this]
  | some j =>
    obtain rfl := KeySize.ofCode_eq_some_iff.mp h
    by_cases hl : klen = 4 * j.nk
    · simp only [hl, if_true, Except.ok.injEq]
      constructor
      · rintro rfl
        simp
      · rintro ⟨hc, -⟩
        have := KeySize.ofCode_eq_some_iff.mpr hc
        simpa using this
    · simp only [hl, if_false, reduceCtorEq, false_iff, not_and]
      intro hc
      have := KeySize.ofCode_eq_some_iff.mpr hc
      simp only [KeySize.ofCode_code, Option.some.injEq] at this
      subst this
      exact hl

/-- The two errors of `KEYEXP`, in order (R248 (2)). -/
theorem keyexpCheck_cases (ksel : BitVec 2) (klen : Nat) :
    (ksel = 0b11 ∧ keyexpCheck ksel klen = .error .invalidKeySize) ∨
    (∃ k : KeySize, ksel = k.code ∧ klen ≠ 4 * k.nk ∧ keyexpCheck ksel klen = .error .invalidKeyMaterial) ∨
    (∃ k : KeySize, ksel = k.code ∧ klen = 4 * k.nk ∧ keyexpCheck ksel klen = .ok k) := by
  cases h : KeySize.ofCode ksel with
  | none => exact .inl ⟨KeySize.ofCode_eq_none_iff.mp h, by simp [keyexpCheck, h]⟩
  | some k =>
    refine .inr ?_
    have hc := KeySize.ofCode_eq_some_iff.mp h
    by_cases hl : klen = 4 * k.nk
    · exact .inr ⟨k, hc, hl, by simp [keyexpCheck, h, hl]⟩
    · exact .inl ⟨k, hc, hl, by simp [keyexpCheck, h, hl]⟩

/-- What a command can do to the state, whichever it is: raise an error, write `S` and respond, respond only, or load a key and
respond. -/
theorem exec_cases (i : Instr) (s : State) :
    (∃ e, e ≠ .ok ∧ e ≠ .malformedCiphertext ∧ exec i s = .next (s.raise e)) ∨
    (∃ m b, exec i s = .next ((s.setS m).respond b)) ∨
    (∃ b, exec i s = .next (s.respond b)) ∨
    (∃ ksel klen k, i = .keyexp ksel klen ∧ keyexpCheck ksel klen = .ok k ∧
      exec i s = .next ((s.loadKey k (keyMemory k (dinKeyWord s.din))).respond [])) := by
  cases i with
  | keyexp ksel klen =>
    rcases keyexpCheck_cases ksel klen with ⟨-, h⟩ | ⟨k, -, -, h⟩ | ⟨k, -, -, h⟩
    · exact .inl ⟨.invalidKeySize, by decide, by decide, by simp [exec, execKeyexp, h]⟩
    · exact .inl ⟨.invalidKeyMaterial, by decide, by decide, by simp [exec, execKeyexp, h]⟩
    · exact .inr (.inr (.inr ⟨ksel, klen, k, rfl, h, by simp only [exec, execKeyexp, h]⟩))
  | rdrk round =>
    rcases s.roundError_cases round with ⟨-, h⟩ | ⟨-, -, h⟩ | ⟨-, -, h⟩
    · exact .inl ⟨.noKey, by decide, by decide, by simp [exec, execRdrk, h]⟩
    · exact .inl ⟨.roundOutOfRange, by decide, by decide, by simp [exec, execRdrk, h]⟩
    · exact .inr (.inr (.inl ⟨_, by simp only [exec, execRdrk, h]; rfl⟩))
  | addroundkey round =>
    rcases s.roundError_cases round with ⟨-, h⟩ | ⟨-, -, h⟩ | ⟨-, -, h⟩
    · exact .inl ⟨.noKey, by decide, by decide, by simp [exec, execAddroundkey, h]⟩
    · exact .inl ⟨.roundOutOfRange, by decide, by decide, by simp [exec, execAddroundkey, h]⟩
    · exact .inr (.inl ⟨_, _, by simp only [exec, execAddroundkey, h]; rfl⟩)
  | enc =>
    rcases s.keyError_cases with ⟨-, h⟩ | ⟨-, h⟩
    · exact .inl ⟨.noKey, by decide, by decide, by simp [exec, execEnc, h]⟩
    · exact .inr (.inl ⟨_, _, by simp only [exec, execEnc, h]; rfl⟩)
  | dec =>
    rcases s.keyError_cases with ⟨-, h⟩ | ⟨-, h⟩
    · exact .inl ⟨.noKey, by decide, by decide, by simp [exec, execDec, h]⟩
    · exact .inr (.inl ⟨_, _, by simp only [exec, execDec, h]; rfl⟩)
  | gfmul => exact .inr (.inr (.inl ⟨_, rfl⟩))
  | rdstate => exact .inr (.inr (.inl ⟨_, rfl⟩))
  | subbytes => exact .inr (.inl ⟨_, _, rfl⟩)
  | invsubbytes => exact .inr (.inl ⟨_, _, rfl⟩)
  | shiftrows => exact .inr (.inl ⟨_, _, rfl⟩)
  | invshiftrows => exact .inr (.inl ⟨_, _, rfl⟩)
  | mixcolumns => exact .inr (.inl ⟨_, _, rfl⟩)
  | invmixcolumns => exact .inr (.inl ⟨_, _, rfl⟩)
  | ldstate => exact .inr (.inl ⟨_, _, rfl⟩)

/-- A command at the port: it runs on the sampled state, or its word is illegal (R89, R245). -/
theorem perform_cases (w : BitVec 16) (d : BitVec 256) (s : State) :
    (∃ i, decode w = .ok i ∧ perform w d s = exec i (s.sample (Pins.command w d))) ∨
    (∃ e, decode w = .error e ∧ perform w d s = .next ((s.sample (Pins.command w d)).raise .illegalCommand)) := by
  cases h : decode w with
  | ok i => exact .inl ⟨i, rfl, by simp [perform, h]⟩
  | error e => exact .inr ⟨e, rfl, by simp [perform, h]⟩

/-- The port's event, case by case (R36, R280). -/
theorem State.portEvent_cases (s : State) (p : Pins) :
    (p.rst = true ∧ s.portEvent p = .reset) ∨
    (p.rst = false ∧ s.inFlight = true ∧ s.portEvent p = .advance) ∨
    (p.rst = false ∧ s.inFlight = false ∧ s.rspValid = true ∧ p.rspReady = true ∧ s.portEvent p = .deliver) ∨
    (p.rst = false ∧ s.inFlight = false ∧ s.rspValid = true ∧ p.rspReady = false ∧ s.portEvent p = .wait) ∨
    (p.rst = false ∧ s.inFlight = false ∧ s.rspValid = false ∧ p.cmdValid = true ∧ s.portEvent p = .accept) ∨
    (p.rst = false ∧ s.inFlight = false ∧ s.rspValid = false ∧ p.cmdValid = false ∧ s.portEvent p = .wait) := by
  unfold State.portEvent
  cases p.rst <;> cases s.inFlight <;> cases s.rspValid <;> cases p.rspReady <;> cases p.cmdValid <;> simp

/-- What a step can be, case by case: the port's event with the conditions that give it. -/
theorem step_cases (s : State) :
    (s.pins.rst = true ∧ step s = .next s.nextInput.applyReset) ∨
    (s.pins.rst = false ∧ s.inFlight = true ∧ step s = .next s.nextInput.advance) ∨
    (s.pins.rst = false ∧ s.inFlight = false ∧ s.rspValid = true ∧ s.pins.rspReady = true ∧
      step s = .next s.nextInput.deliver) ∨
    (s.pins.rst = false ∧ s.inFlight = false ∧ s.rspValid = true ∧ s.pins.rspReady = false ∧ step s = .next s.nextInput) ∨
    (s.pins.rst = false ∧ s.inFlight = false ∧ s.rspValid = false ∧ s.pins.cmdValid = true ∧
      step s = perform s.pins.cmdWord s.pins.cmdData s.nextInput) ∨
    (s.pins.rst = false ∧ s.inFlight = false ∧ s.rspValid = false ∧ s.pins.cmdValid = false ∧
      step s = .next s.nextInput) := by
  have e : s.nextInput.inFlight = s.inFlight := rfl
  have e' : s.nextInput.rspValid = s.rspValid := rfl
  have h := s.nextInput.portEvent_cases s.pins
  rw [e, e'] at h
  unfold step
  clear e e'
  rcases h with ⟨a, h⟩ | ⟨a, b, h⟩ | ⟨a, b, c, d, h⟩ | ⟨a, b, c, d, h⟩ | ⟨a, b, c, d, h⟩ | ⟨a, b, c, d, h⟩ <;>
    simp_all

/-- The core is ready exactly when it presents no response and its sequencer is idle (R35, R36). -/
theorem State.cmdReady_iff (s : State) : s.cmdReady = true ↔ s.rspValid = false ∧ s.inFlight = false := by
  unfold State.cmdReady State.busy
  cases s.rspValid <;> simp

theorem State.inFlight_eq_false_iff (s : State) : s.inFlight = false ↔ s.phase = .idle ∧ s.ki = 0 := by
  simp [State.inFlight]

end Sys2Proof.Machine
end

