-- ==== Sys2Proof/Laws/KeySchedule.lean ====
section
/-! SUPPORT. The laws of the key schedule: the ExpandedKey word by word, and `W` as KEYEXP leaves it. -/

namespace Sys2Proof

@[simp] theorem expandWords_length (nk : Nat) (key : Nat → Word) (n : Nat) : (expandWords nk key n).length = n := by
  induction n with
  | zero => rfl
  | succ n ih => simp [expandWords, ih]

/-- Word `i`, once produced, stays as it was produced (R147 (e)). -/
theorem expandWords_getD (nk : Nat) (key : Nat → Word) {i n : Nat} (h : i < n) :
    (expandWords nk key n).getD i Word.zero = scheduleWord nk key (expandWords nk key i) i := by
  induction n with
  | zero => omega
  | succ n ih =>
    rcases Nat.lt_succ_iff_lt_or_eq.mp h with h' | rfl
    · rw [expandWords, ← ih h']
      simp [List.getD, List.getElem?_append, h']
    · simp [expandWords, List.getD]

/-- The first `n` words agree with any longer expansion. -/
theorem expandWords_getD_mono (nk : Nat) (key : Nat → Word) {i m n : Nat} (hm : i < m) (hn : i < n) :
    (expandWords nk key m).getD i Word.zero = (expandWords nk key n).getD i Word.zero := by
  rw [expandWords_getD nk key hm, expandWords_getD nk key hn]

/-- The key words come first (R146, first loop). -/
theorem expand_key (k : KeySize) (key : Nat → Word) {i : Nat} (h : i < k.nk) : (expand k key).getD i Word.zero = key i := by
  have := k.nk_le_words
  rw [expand, expandWords_getD _ _ (by omega)]
  simp [scheduleWord, h]

/-- Each later word is the word `Nk` before it XOR `temp` (R146, second loop). -/
theorem expand_step (k : KeySize) (key : Nat → Word) {i : Nat} (h : k.nk ≤ i) (hi : i < k.words) :
    (expand k key).getD i Word.zero =
      ((expand k key).getD (i - k.nk) Word.zero).xor (scheduleTemp k.nk i ((expand k key).getD (i - 1) Word.zero)) := by
  have hp := k.nk_pos
  rw [expand, expandWords_getD _ _ hi]
  simp only [scheduleWord, Nat.not_lt.mpr h, if_false]
  rw [expandWords_getD_mono _ _ (show i - k.nk < i by omega) (show i - k.nk < k.words by omega),
    expandWords_getD_mono _ _ (show i - 1 < i by omega) (show i - 1 < k.words by omega)]

/-- Past the ExpandedKey there is nothing. -/
theorem expand_tail (k : KeySize) (key : Nat → Word) {i : Nat} (h : k.words ≤ i) :
    (expand k key).getD i Word.zero = Word.zero := by
  simp [expand, List.getD, h]

/-- `W` as KEYEXP leaves it, word by word (R149). -/
theorem keyMemory_getElem (k : KeySize) (key : Nat → Word) (i : Nat) (h : i < 60) :
    (keyMemory k key)[i] = (expand k key).getD i Word.zero := by
  simp [keyMemory]

end Sys2Proof

namespace Sys2Proof.Machine

/-- Reading `W` after a key has been loaded (R149). -/
theorem State.word_keyMemory {s : State} {k : KeySize} {key : Nat → Word} (h : s.W = keyMemory k key) (i : Nat) :
    s.word i = (expand k key).getD i Word.zero := by
  rw [State.word, h]
  by_cases hi : i < 60
  · simp [hi, keyMemory_getElem]
  · have := k.words_le
    rw [expand_tail k key (by omega)]
    simp [hi]

end Sys2Proof.Machine
end

