-- ==== Sys2Proof/Laws/PerInstr.lean ====
section
/-! SUPPORT. The family TableRow: the word of every command lies in its own row of the opcode table (spec/30_encoding.md R86), one
lemma per constructor of Instr. -/

namespace Sys2Proof.Laws.TableRow

/-- The command's word, under the mask of its row, is the match value of its row, and its high byte is the row's opcode (R86); for
an operand that does not fit its field this rests on log entry 21. -/
def Statement (i : Instr) : Prop := encode i &&& i.rowMask = i.rowMatch ∧ opcodeField (encode i) = i.opcode

theorem keyexp (ksel : BitVec 2) (klen : Nat) : Statement (.keyexp ksel klen) := by
  simp only [Statement, encode, Instr.arg, Instr.opcode, Instr.rowMask, Instr.rowMatch]
  generalize BitVec.ofNat 6 klen = n
  revert ksel n
  decide

theorem rdrk (round : Nat) : Statement (.rdrk round) := by
  simp only [Statement, encode, Instr.arg, Instr.opcode, Instr.rowMask, Instr.rowMatch]
  generalize BitVec.ofNat 4 round = n
  revert n
  decide

theorem subbytes : Statement .subbytes := by unfold Statement; decide
theorem invsubbytes : Statement .invsubbytes := by unfold Statement; decide
theorem shiftrows : Statement .shiftrows := by unfold Statement; decide
theorem invshiftrows : Statement .invshiftrows := by unfold Statement; decide
theorem mixcolumns : Statement .mixcolumns := by unfold Statement; decide
theorem invmixcolumns : Statement .invmixcolumns := by unfold Statement; decide

theorem addroundkey (round : Nat) : Statement (.addroundkey round) := by
  simp only [Statement, encode, Instr.arg, Instr.opcode, Instr.rowMask, Instr.rowMatch]
  generalize BitVec.ofNat 4 round = n
  revert n
  decide

theorem gfmul : Statement .gfmul := by unfold Statement; decide
theorem ldstate : Statement .ldstate := by unfold Statement; decide
theorem rdstate : Statement .rdstate := by unfold Statement; decide
theorem enc : Statement .enc := by unfold Statement; decide
theorem dec : Statement .dec := by unfold Statement; decide

end Sys2Proof.Laws.TableRow
end

