-- ==== Sys2Proof/Laws/Safety.lean ====
section
/-! SUPPORT. What the shared endings of a command mean in the terms claims use, and sequences of commands. -/

namespace Sys2Proof.Machine

/-- `respond()` is a success with 16 zero bytes (R17). -/
theorem State.answersOk_respond (s : State) : (s.respond []).AnswersOk := by
  refine ⟨rfl, rfl, fun k hk => ?_⟩
  rw [State.respond_dout _ _ hk]
  simp

/-- `respond` writes no state but the response (R17). -/
theorem State.sameArch_respond (s : State) (b : List Byte) : s.SameArch (s.respond b) := ⟨rfl, rfl, rfl, rfl⟩

theorem State.sameRest_respond (s : State) (b : List Byte) : s.SameRest (s.respond b) := ⟨rfl, rfl, rfl, rfl, rfl, rfl, rfl⟩

/-- A command that writes the State and responds leaves the key and the rest alone. -/
theorem State.sameKey_setS_respond (s : State) (m : Mat4) (b : List Byte) : s.SameKey ((s.setS m).respond b) := ⟨rfl, rfl, rfl⟩

theorem State.sameRest_setS_respond (s : State) (m : Mat4) (b : List Byte) : s.SameRest ((s.setS m).respond b) :=
  ⟨rfl, rfl, rfl, rfl, rfl, rfl, rfl⟩

/-- A command that raises an error fails with it (R17, R240, R249). -/
theorem State.failsWith_of_raise {i : Instr} {s : State} {e : ErrCode} (h : exec i s = .next (s.raise e)) : s.FailsWith i e :=
  ⟨_, h, ⟨rfl, rfl, fun k _ => by simp⟩, ⟨rfl, rfl, rfl, rfl⟩, ⟨rfl, rfl, rfl, rfl, rfl, rfl, rfl⟩⟩

theorem State.SameKey.trans {s t u : State} (h : s.SameKey t) (h' : t.SameKey u) : s.SameKey u :=
  ⟨h'.1.trans h.1, h'.2.1.trans h.2.1, h'.2.2.trans h.2.2⟩

/-- A sequence of commands runs in two parts (R58). -/
theorem performAll_append {a b : List (BitVec 16 × BitVec 256)} {s t : State} (h : performAll a s = .next t) :
    performAll (a ++ b) s = performAll b t := by
  induction a generalizing s with
  | nil =>
    simp only [performAll, Host.Outcome.next.injEq] at h
    simp [h]
  | cons c cs ih =>
    simp only [performAll, List.cons_append] at h ⊢
    cases hp : perform c.1 c.2 s with
    | next u =>
      simp only [hp] at h ⊢
      exact ih h
    | fault f => cases f
    | refused r => simp [hp] at h

end Sys2Proof.Machine
end

