-- ==== Sys2Proof/Laws/Transforms.lean ====
section
/-! SUPPORT. The State transforms cell by cell. -/

namespace Sys2Proof

@[simp] theorem subBytes_get (m : Mat4) (r c : Fin 4) : (subBytes m).get r c = SBOX (m.get r c) := by simp [subBytes]

@[simp] theorem invSubBytes_get (m : Mat4) (r c : Fin 4) : (invSubBytes m).get r c = INVSBOX (m.get r c) := by
  simp [invSubBytes]

@[simp] theorem shiftRows_get (m : Mat4) (r c : Fin 4) : (shiftRows m).get r c = m.get r (c + r) := by simp [shiftRows]

@[simp] theorem invShiftRows_get (m : Mat4) (r c : Fin 4) : (invShiftRows m).get r c = m.get r (c - r) := by
  simp [invShiftRows]

@[simp] theorem addRoundKey_get (key m : Mat4) (r c : Fin 4) : (addRoundKey key m).get r c = m.get r c ^^^ key.get r c := by
  simp [addRoundKey]

/-- Row 0 of a column mix: the coefficients as listed (R172). -/
theorem mixWith_get_0 (f : Fin 4 → Byte) (m : Mat4) (c : Fin 4) :
    (mixWith f m).get 0 c =
      gmul (f 0) (m.get 0 c) ^^^ gmul (f 1) (m.get 1 c) ^^^ gmul (f 2) (m.get 2 c) ^^^ gmul (f 3) (m.get 3 c) :=
  Mat4.get_ofFn _ 0 c

/-- Row 1 of a column mix: the coefficients rotated right by one place (R173). -/
theorem mixWith_get_1 (f : Fin 4 → Byte) (m : Mat4) (c : Fin 4) :
    (mixWith f m).get 1 c =
      gmul (f 3) (m.get 0 c) ^^^ gmul (f 0) (m.get 1 c) ^^^ gmul (f 1) (m.get 2 c) ^^^ gmul (f 2) (m.get 3 c) :=
  Mat4.get_ofFn _ 1 c

/-- Row 2 of a column mix: by two places. -/
theorem mixWith_get_2 (f : Fin 4 → Byte) (m : Mat4) (c : Fin 4) :
    (mixWith f m).get 2 c =
      gmul (f 2) (m.get 0 c) ^^^ gmul (f 3) (m.get 1 c) ^^^ gmul (f 0) (m.get 2 c) ^^^ gmul (f 1) (m.get 3 c) :=
  Mat4.get_ofFn _ 2 c

/-- Row 3 of a column mix: by three places. -/
theorem mixWith_get_3 (f : Fin 4 → Byte) (m : Mat4) (c : Fin 4) :
    (mixWith f m).get 3 c =
      gmul (f 1) (m.get 0 c) ^^^ gmul (f 2) (m.get 1 c) ^^^ gmul (f 3) (m.get 2 c) ^^^ gmul (f 0) (m.get 3 c) :=
  Mat4.get_ofFn _ 3 c

end Sys2Proof
end

