-- ==== Sys2Proof/Tests/Slice0.lean ====
section
/-! SUPPORT. Tests of single commands against the spec's own vectors (spec/95_test_vectors.md, spec/96_test_vectors_errors_host.md),
decoding of words written out from spec/30_encoding.md, the WellFormed checks, and a witness for the hypotheses of each
obligation that has some. -/

namespace Sys2Proof.Tests

open Sys2Proof Sys2Proof.Machine

set_option Elab.async false

/-! ## Helpers -/

/-- The state after one command with its data. -/
def after (w : BitVec 16) (d : BitVec 256) (s : State) : State :=
  match perform w d s with
  | .next t => t
  | _ => s

/-- The next state, where there is one. -/
def next? (o : Host.Outcome State Fault Refusal) : Option State :=
  match o with
  | .next t => some t
  | _ => none

/-- The reset state with the block `b` in the State. -/
def holding (b : BitVec 128) : State := State.reset.setS (Mat4.ofBlock (doutByte b))

/-- The core idle after `KEYEXP.128 000102...0f` (vector K1). -/
def keyed128 : State := (after 0x1010 (blockData 0x000102030405060708090a0b0c0d0e0f) State.reset).deliver

/-- The core idle after `KEYEXP.192 000102...17` (vector K2). -/
def keyed192 : State :=
  (after 0x1058 (0x000102030405060708090a0b0c0d0e0f101112131415161718191a1b1c1d1e1f) State.reset).deliver

/-- The core idle after `KEYEXP.256 000102...1f` (vector K3). -/
def keyed256 : State :=
  (after 0x10A0 (0x000102030405060708090a0b0c0d0e0f101112131415161718191a1b1c1d1e1f) State.reset).deliver

/-- The block of the known-answer test, as command data. -/
def katData : BitVec 256 := blockData 0x00112233445566778899aabbccddeeff

/-! ## WellFormed refuses what no encoding holds (R83) -/

theorem test_wellFormed_klen : (Instr.keyexp 0 64).wellFormed = false ∧ (Instr.keyexp 3 63).wellFormed = true := by decide
theorem test_wellFormed_rdrk : (Instr.rdrk 16).wellFormed = false ∧ (Instr.rdrk 15).wellFormed = true := by decide
theorem test_wellFormed_addroundkey :
    (Instr.addroundkey 16).wellFormed = false ∧ (Instr.addroundkey 15).wellFormed = true := by decide

/-! ## Decoding: each word written out from R81 and R86, opcode byte then argument byte -/

theorem test_decode_keyexp : decode 0b00010000_10_100000 = .ok (.keyexp 0b10 32) := by decide
theorem test_decode_keyexp_max : decode 0b00010000_11_111111 = .ok (.keyexp 0b11 63) := by decide
theorem test_decode_rdrk : decode 0b00010001_0000_1010 = .ok (.rdrk 10) := by decide
theorem test_decode_subbytes : decode 0b00100000_00000000 = .ok .subbytes := by decide
theorem test_decode_invsubbytes : decode 0b00100001_00000000 = .ok .invsubbytes := by decide
theorem test_decode_shiftrows : decode 0b00100010_00000000 = .ok .shiftrows := by decide
theorem test_decode_invshiftrows : decode 0b00100011_00000000 = .ok .invshiftrows := by decide
theorem test_decode_mixcolumns : decode 0b00100100_00000000 = .ok .mixcolumns := by decide
theorem test_decode_invmixcolumns : decode 0b00100101_00000000 = .ok .invmixcolumns := by decide
theorem test_decode_addroundkey : decode 0b00100110_0000_1111 = .ok (.addroundkey 15) := by decide
theorem test_decode_gfmul : decode 0b00100111_00000000 = .ok .gfmul := by decide
theorem test_decode_ldstate : decode 0b00110000_00000000 = .ok .ldstate := by decide
theorem test_decode_rdstate : decode 0b00110001_00000000 = .ok .rdstate := by decide
theorem test_decode_enc : decode 0b01000000_00000000 = .ok .enc := by decide
theorem test_decode_dec : decode 0b01000001_00000000 = .ok .dec := by decide

/-- The illegal words of vectors E16 to E29 and E8d, by the case of R87. -/
theorem test_decode_illegal_opcode : decode 0x0000 = .error .unassignedOpcode ∧ decode 0xffff = .error .unassignedOpcode ∧
    decode 0x2800 = .error .unassignedOpcode ∧ decode 0x1200 = .error .unassignedOpcode ∧
    decode 0x3200 = .error .unassignedOpcode ∧ decode 0x4200 = .error .unassignedOpcode ∧
    decode 0x5000 = .error .unassignedOpcode ∧ decode 0x0010 = .error .unassignedOpcode := by decide
theorem test_decode_illegal_formatZ : decode 0x2001 = .error .formatZArgNotZero ∧ decode 0x4001 = .error .formatZArgNotZero ∧
    decode 0x4180 = .error .formatZArgNotZero ∧ decode 0x27ff = .error .formatZArgNotZero := by decide
theorem test_decode_illegal_formatR : decode 0x2610 = .error .formatRHighNibbleNotZero ∧
    decode 0x1110 = .error .formatRHighNibbleNotZero ∧ decode 0x26f0 = .error .formatRHighNibbleNotZero := by decide

/-- The assembler's words of R90 and R91. -/
theorem test_encode : encode (.keyexp 0 16) = 0x1010 ∧ encode (.keyexp 1 24) = 0x1058 ∧ encode (.keyexp 2 32) = 0x10A0 ∧
    encode (.rdrk 1) = 0x1101 ∧ encode (.addroundkey 10) = 0x260a ∧ encode .dec = 0x4100 := by decide

theorem test_decodeTableWord : decodeTableWord 16 0x4000 = some .enc ∧ decodeTableWord 16 0x110B = some (.rdrk 11) ∧
    decodeTableWord 16 0x2800 = none ∧ decodeTableWord 24 0x4000 = none := by decide

/-! ## The commands, at most two tests each, expected values from the spec's vectors -/

/-- K1, K2, K3: a word of each expanded key in the last round, and R148's `SubWord`-only branch. -/
theorem test_keyexp_words : keyed128.word 43 = ⟨0x4d, 0x2b, 0x30, 0xc5⟩ ∧ keyed192.word 10 = ⟨0x48, 0x56, 0xe2, 0xe9⟩ ∧
    keyed192.word 51 = ⟨0xe3, 0xa4, 0x1d, 0x5d⟩ ∧ keyed256.word 12 = ⟨0x16, 0x51, 0xa8, 0xcd⟩ := by decide +kernel

/-- E3, E5, E14: the two errors, and the earlier instance stays. -/
theorem test_keyexp_errors : (after 0x10d0 0 State.reset).rspErrPins = 1 ∧ (after 0x1018 0 State.reset).rspErrPins = 2 ∧
    (after 0x1050 0 keyed128).rspErrPins = 2 ∧ (after 0x1050 0 keyed128).kvalid = true := by decide +kernel

/-- R152, E31. -/
theorem test_rdrk : (after 0x110a 0 keyed128).rspData = 0x13111d7fe3944a17f307a78b4d2b30c5 ∧
    (after 0x110d 0 keyed192).rspErrPins = 5 := by decide +kernel

/-- E8b: `NoKey` first. -/
theorem test_rdrk_noKey : (after 0x110f 0 State.reset).rspErrPins = 4 := by decide +kernel

/-- S2. -/
theorem test_subbytes : (after 0x2000 0 (holding 0xfedcba98765432100123456789abcdef)).S.block =
    (Mat4.ofBlock (doutByte 0xbb86f446382023ca7c266e85a762bddf)).block := by decide +kernel
theorem test_invsubbytes : (after 0x2100 0 (holding 0xfedcba98765432100123456789abcdef)).S.block =
    (Mat4.ofBlock (doutByte 0x0c93c0e20ffda17c0932680af20e8061)).block := by decide +kernel
theorem test_shiftrows : (after 0x2200 0 (holding 0xfedcba98765432100123456789abcdef)).S.block =
    (Mat4.ofBlock (doutByte 0xfe5445ef7623cd9801abba1089dc3267)).block := by decide +kernel
theorem test_invshiftrows : (after 0x2300 0 (holding 0xfedcba98765432100123456789abcdef)).S.block =
    (Mat4.ofBlock (doutByte 0xfeab451076dccd670154baef89233298)).block := by decide +kernel
theorem test_mixcolumns : (after 0x2400 0 (holding 0xfedcba98765432100123456789abcdef)).S.block =
    (Mat4.ofBlock (doutByte 0xba10fe54329876dc45ef01abcd678923)).block := by decide +kernel
theorem test_invmixcolumns : (after 0x2500 0 (holding 0xfedcba98765432100123456789abcdef)).S.block =
    (Mat4.ofBlock (doutByte 0xb11bf55f39937dd74ee40aa0c66c8228)).block := by decide +kernel

/-- S4: the columns that show the matrices' columns. -/
theorem test_mixcolumns_columns : (after 0x2400 0 (holding 0x80000000010000000001000000000001)).S.block =
    (Mat4.ofBlock (doutByte 0x1b80809b020101030302010101010302)).block := by decide +kernel
theorem test_invmixcolumns_columns : (after 0x2500 0 (holding 0x80000000010000000001000000000001)).S.block =
    (Mat4.ofBlock (doutByte 0x41ecdaf70e090d0b0b0e090d090d0b0e)).block := by decide +kernel

/-- S6: round 10 of K1 on the known-answer block; E33. -/
theorem test_addroundkey : (after 0x260a 0 (keyed128.setS (dinBlock katData))).S.block =
    (Mat4.ofBlock (doutByte 0x13003f4ca7c12c607b9e0d3081f6de3a)).block := by decide +kernel
theorem test_addroundkey_errors : (after 0x260f 0 keyed256).rspErrPins = 5 ∧ (after 0x260f 0 State.reset).rspErrPins = 4 ∧
    (after 0x260e 0 keyed256).rspErrPins = 0 := by decide +kernel

/-- M1. -/
theorem test_gfmul : (after 0x2700 (packDin [0x57, 0x13]) State.reset).rspData = 0xfe000000000000000000000000000000 ∧
    (after 0x2700 (packDin [0x80, 0x80]) State.reset).rspData = 0x9a000000000000000000000000000000 := by decide +kernel

/-- A1, A3: the table of the vector by row and column; the last 16 bytes are ignored. -/
theorem test_ldstate : (after 0x3000 (katData + 0xffffffffffffffffffffffffffffffff) State.reset).S =
    ⟨⟨0x00, 0x11, 0x22, 0x33⟩, ⟨0x44, 0x55, 0x66, 0x77⟩, ⟨0x88, 0x99, 0xaa, 0xbb⟩, ⟨0xcc, 0xdd, 0xee, 0xff⟩⟩ := by
  decide +kernel

/-- A1, A2. -/
theorem test_rdstate : (after 0x3100 0 (holding 0x00112233445566778899aabbccddeeff)).rspData = 0x00112233445566778899aabbccddeeff ∧
    (after 0x3100 0 State.reset).rspData = 0 := by decide +kernel

/-- V1 (the source's known-answer test) and V4. -/
theorem test_enc : (after 0x4000 katData keyed128).rspData = 0x69c4e0d86a7b0430d8cdb78070b4c55a := by decide +kernel
theorem test_enc_256 : (after 0x4000 katData keyed256).rspData = 0x8ea2b7ca516745bfeafc49904b496089 := by decide +kernel

/-- V3 (the inverse) and V7. -/
theorem test_dec_192 : (after 0x4100 (blockData 0xdda97ca4864cdfe06eaf70a0ec0d7191) keyed192).rspData =
    0x00112233445566778899aabbccddeeff := by decide +kernel
theorem test_dec : (after 0x4100 katData keyed128).rspData = 0x762a5ab50929189cefdb99434790aad8 := by decide +kernel

/-! ## The step at the port -/

/-- A word placed by withFetchWord runs in the very next step: `RDSTATE` answers (R193), an illegal word answers 6 (R245). -/
theorem test_step_withFetchWord : next? (step ((holding 0x00112233445566778899aabbccddeeff).withFetchWord 16 0x3100)) =
    some { holding 0x00112233445566778899aabbccddeeff with
      cmdWord := 0x3100, rspValid := true, rspData := 0x00112233445566778899aabbccddeeff } := by decide +kernel

theorem test_step_illegal : next? (step (State.reset.withFetchWord 16 0x2001)) =
    some { State.reset with cmdWord := 0x2001, rspValid := true, rspErr := .illegalCommand } := by decide +kernel

/-- E15: a command is presented and its response taken, two steps from the keyed core (R36). -/
theorem test_port_delivers :
    (next? (Host.Core.run Sys2Proof.core 2 (keyed128.withHost [Pins.command 0x4000 katData, Pins.take]))).map
      (fun t => t.delivered.map Response.data) = some [0, 0x69c4e0d86a7b0430d8cdb78070b4c55a] := by decide +kernel

/-- E1, delivered: the response has code 4, and the core holds no trace of it (R246). -/
theorem test_error_leaves_no_trace :
    (next? (Host.Core.run Sys2Proof.core 2 (State.reset.withHost [Pins.command 0x4000 0, Pins.take]))) =
      some { State.reset with delivered := [⟨.noKey, 0⟩] } := by decide +kernel

/-! ## Witnesses: states and operands that meet the hypotheses of the obligations -/

/-- The reset state with a row of pins. -/
def presented (p : Pins) : State := State.reset.withHost [p]

theorem witness_StepRunsDecodedInstruction :
    (presented (Pins.command 0x3000 katData)).host = Pins.command 0x3000 katData :: [] ∧ (Pins.command 0x3000 katData).rst = false ∧
      (Pins.command 0x3000 katData).cmdValid = true ∧ (presented (Pins.command 0x3000 katData)).cmdReady = true ∧
      decode (Pins.command 0x3000 katData).cmdWord = .ok .ldstate := by decide

theorem witness_IllegalWordIsAnswered :
    (presented (Pins.command 0x2001 0)).host = Pins.command 0x2001 0 :: [] ∧ (Pins.command 0x2001 0).rst = false ∧
      (Pins.command 0x2001 0).cmdValid = true ∧ (presented (Pins.command 0x2001 0)).cmdReady = true ∧
      decode (Pins.command 0x2001 0).cmdWord = .error .formatZArgNotZero := by decide

theorem witness_ResetGivesTheResetState : (keyed128.withHost [⟨true, false, 0, 0, false⟩]).pins.rst = true := rfl

/-- A core without a key and a core with one meet the invariant, and both step. -/
theorem witness_StepKeepsInvariant : State.reset.Inv ∧ step State.reset = .next State.reset := by
  refine ⟨⟨⟨rfl, rfl, rfl⟩, ⟨fun h => absurd h (by decide), fun _ => ⟨rfl, rfl⟩⟩, fun h => absurd h (by decide), ?_, fun _ => ⟨rfl, rfl⟩⟩, rfl⟩
  intro r h
  cases h

theorem witness_StepKeepsInvariant_keyed : keyed128.Inv ∧ step keyed128 = .next keyed128 := by
  refine ⟨⟨⟨rfl, rfl, rfl⟩, ⟨fun _ => ⟨dinKeyWord (blockData 0x000102030405060708090a0b0c0d0e0f), rfl⟩, fun h => absurd h (by decide)⟩,
    fun h => absurd h (by decide), ?_, fun _ => ⟨rfl, rfl⟩⟩, rfl⟩
  intro r h
  have e : keyed128.delivered = [⟨.ok, packDout []⟩] := rfl
  rw [e, List.mem_singleton] at h
  subst h
  exact ⟨fun h => absurd rfl h, by decide⟩

/-- `EveryCommandIsAnswered`, the clause about errors: a command that fails. -/
theorem witness_EveryCommandIsAnswered : (after 0x4000 katData State.reset).rspErr ≠ .ok := by decide +kernel

theorem witness_DecodeEncodeAgree :
    (Instr.keyexp 3 63).wellFormed = true ∧ (Instr.rdrk 15).wellFormed = true ∧ Instr.dec.wellFormed = true := by decide

theorem witness_DecodedWordsAreEncodings : decode 0x10FF = .ok (.keyexp 0b11 63) ∧ decode 0x260F = .ok (.addroundkey 15) := by
  decide

/-- An illegal word, and the first round out of range of each key size. -/
theorem witness_IllegalWordsAreExactly : decode 0x0000 = .error .unassignedOpcode ∧ keyed128.ksel.nr < 11 ∧
    keyed192.ksel.nr < 13 ∧ keyed256.ksel.nr < 15 ∧ keyed128.kvalid = true ∧ State.reset.ksel.nr < 11 := by decide +kernel

/-- The three outcomes of each clause: no key, the first round out of range, the last in range; each reason of `KEYEXP`. -/
theorem witness_ErrorPriority : decode 0xFFFF = .error .unassignedOpcode ∧ State.reset.kvalid = false ∧
    (keyed128.kvalid = true ∧ 11 > keyed128.ksel.nr ∧ ¬ 10 > keyed128.ksel.nr) ∧
    (after 0x10FF 0 State.reset).rspErr = .invalidKeySize ∧ (after 0x100F 0 State.reset).rspErr = .invalidKeyMaterial ∧
    (after 0x1011 0 State.reset).rspErr = .invalidKeyMaterial ∧ (after 0x1010 0 State.reset).rspErr = .ok ∧
    Instr.gfmul ∈ keylessCommands := by decide +kernel

theorem witness_StraightAfterReset : Instr.mixcolumns ∈ keylessCommands ∧ Instr.enc ∈ [.rdrk 0, .addroundkey 0, .enc, .dec] := by
  decide

/-- A column of four equal bytes, and a State that is the XOR of two others. -/
theorem witness_MixColumnsResult : (∀ r, (holding 0x01010101000000000000000000000000).S.get r 0 =
      (holding 0x01010101000000000000000000000000).S.get 0 0) ∧
    ∀ r c, (holding 0xff000000000000000000000000000000).S.get r c =
      (holding 0xf0000000000000000000000000000000).S.get r c ^^^ (holding 0x0f000000000000000000000000000000).S.get r c := by
  decide +kernel

/-- The last valid round, the first invalid one, and no key at all. -/
theorem witness_AddRoundKeyResult : (keyed128.kvalid = true ∧ 10 ≤ keyed128.ksel.nr) ∧
    (keyed256.kvalid = true ∧ 14 ≤ keyed256.ksel.nr ∧ keyed256.ksel.nr < 15) ∧ State.reset.kvalid = false ∧ 15 < 16 := by
  decide +kernel

theorem witness_RdrkResult : (keyed192.kvalid = true ∧ 12 ≤ keyed192.ksel.nr ∧ keyed192.ksel.nr < 13) ∧
    State.reset.kvalid = false ∧ 0 ≤ keyed128.ksel.nr := by decide +kernel

/-- A key and none; rounds 1 and `Nr - 1`, the ends of the main stages. -/
theorem witness_EncResult : keyed128.kvalid = true ∧ State.reset.kvalid = false ∧ (1 ≤ 1 ∧ 1 < keyed128.ksel.nr) ∧
    (1 ≤ 9 ∧ 9 < keyed128.ksel.nr) := by decide +kernel

theorem witness_DecResult : keyed256.kvalid = true ∧ State.reset.kvalid = false ∧ (1 ≤ 1 ∧ 1 < keyed256.ksel.nr) ∧
    (1 ≤ 13 ∧ 13 < keyed256.ksel.nr) := by decide +kernel

/-- The ends of the three ranges of word indices, in the sizes that have each; both special branches; lengths off by one. -/
theorem witness_KeyexpResult : 63 < 64 ∧ (3 < KeySize.k128.nk) ∧
    (KeySize.k128.nk ≤ 4 ∧ 4 < 4 * (KeySize.k128.nr + 1) ∧ 4 % KeySize.k128.nk = 0) ∧
    (KeySize.k256.nk ≤ 59 ∧ 59 < 4 * (KeySize.k256.nr + 1)) ∧ (KeySize.k256.nk > 6 ∧ 52 % KeySize.k256.nk = 4) ∧
    (¬ KeySize.k192.nk > 6 ∧ 10 % KeySize.k192.nk = 4) ∧ (4 * (KeySize.k128.nr + 1) ≤ 44 ∧ 44 < 60) ∧
    (4 * (KeySize.k192.nr + 1) ≤ 52 ∧ 59 < 60) ∧ 15 ≠ 4 * KeySize.k128.nk ∧ 33 ≠ 4 * KeySize.k256.nk := by decide

theorem witness_KeyexpSpellsTheKey :
    exec (.keyexp 0b00 16) State.reset = .next (after 0x1010 0 State.reset |>.sample (Pins.command 0 0)) ∧
      (after 0x1010 0 State.reset |>.sample (Pins.command 0 0)).rspErr = .ok := ⟨rfl, rfl⟩

theorem witness_GmulFieldLaws : (0x53 : Byte) ≠ 0 := by decide

/-- T4: an inverse, and the zero byte. -/
theorem witness_SboxConstruction : gmul 0x53 0xca = 1 ∧ ((0 : Byte) = 0 ∧ (0 : Byte) = 0) ∧ (0xff : Byte) ≠ 0 := by decide

/-- The first and the last boundary of a 128-bit key. -/
theorem witness_RconPowers : (1 ≤ 1 ∧ 9 ≤ 9) ∧
    (KeySize.k128.nk ≤ 4 ∧ 4 < KeySize.k128.words ∧ 4 % KeySize.k128.nk = 0) ∧
    (KeySize.k128.nk ≤ 40 ∧ 40 < KeySize.k128.words ∧ 40 % KeySize.k128.nk = 0) := by decide

/-- The ends of each clause's range: the first and the last round, the last key word, the first and the last word of the schedule
(a boundary with its round constant, and the last word of the longest), and the sequencer at both. -/
theorem witness_IndicesInRange : (0 ≤ keyed256.ksel.nr ∧ 14 ≤ keyed256.ksel.nr) ∧ 7 < keyed256.ksel.nk ∧
    (KeySize.k256.nk ≤ 8 ∧ 8 < KeySize.k256.words ∧ 8 % KeySize.k256.nk = 0) ∧
    (KeySize.k256.nk ≤ 59 ∧ 59 < KeySize.k256.words) ∧
    (KeySize.k128.nk ≤ 40 ∧ 40 < KeySize.k128.words ∧ 40 % KeySize.k128.nk = 0) ∧
    (KeySize.k128.nk ≤ (State.reset.startKey .k128).ki.toNat ∧ (State.reset.startKey .k128).ki.toNat < KeySize.k128.words) ∧
    (KeySize.k256.nk ≤ (State.ki { keyed256 with ki := 59 }).toNat ∧
      (State.ki { keyed256 with ki := 59 }).toNat < KeySize.k256.words) := by decide +kernel

theorem witness_WordFunctions : 0 < 10 ∧ 9 < 10 := by decide

theorem witness_AddRoundKeyIsBlockXor : keyed128.kvalid = true ∧ 0 ≤ keyed128.ksel.nr ∧ 10 ≤ keyed128.ksel.nr ∧ 15 < 16 := by
  decide +kernel

theorem witness_TransformsAreBijections : ((Instr.addroundkey 14, Instr.addroundkey 14) ∈
      [(.subbytes, .invsubbytes), (.invsubbytes, .subbytes), (.shiftrows, .invshiftrows), (.invshiftrows, .shiftrows),
        (.mixcolumns, .invmixcolumns), (.invmixcolumns, .mixcolumns), (Instr.addroundkey 14, Instr.addroundkey 14)]) ∧
    keyed256.kvalid = true ∧ 14 ≤ keyed256.ksel.nr := by decide +kernel

theorem witness_EncLeavesResultInState : keyed192.kvalid = true ∧ 0 ≤ keyed192.ksel.nr ∧ 12 ≤ keyed192.ksel.nr := by decide +kernel

/-- With a key, and without one. -/
theorem witness_EncAsSequence : keyed128.kvalid = true ∧ State.reset.kvalid = false := by decide +kernel

theorem witness_DecAsSequence : keyed256.kvalid = true ∧ State.reset.kvalid = false := by decide +kernel

/-- The data `ENC` returned, presented again (V1, V2), and the data `DEC` returned (V7). -/
theorem witness_EncDecRoundTrip : keyed128.kvalid = true ∧ (Instr.enc, Instr.dec) ∈ [(.enc, .dec), (.dec, .enc)] ∧
    ∀ k < 16, dinByte (blockData 0x69c4e0d86a7b0430d8cdb78070b4c55a) k = doutByte (after 0x4000 katData keyed128).rspData k := by
  decide +kernel

theorem witness_EncDecRoundTrip_dec : keyed128.kvalid = true ∧ (Instr.dec, Instr.enc) ∈ [(.enc, .dec), (.dec, .enc)] ∧
    ∀ k < 16, dinByte (blockData 0x762a5ab50929189cefdb99434790aad8) k = doutByte (after 0x4100 katData keyed128).rspData k := by
  decide +kernel

/-- Two states with one key, one block and different `S` and response. -/
theorem witness_BlockIndependence :
    keyed128.SameKey ({ keyed128 with S := (holding 1).S, rspErr := .noKey }) ∧
      ∀ k < 16, dinByte (State.din { keyed128 with S := (holding 1).S, rspErr := .noKey }) k = dinByte keyed128.din k :=
  ⟨⟨rfl, rfl, rfl⟩, fun _ _ => rfl⟩

/-- Data that differs past the bytes each command uses (V9; the key bytes above `klen`, R149). -/
theorem witness_UnusedDataIsIgnored :
    (∀ k < (Instr.enc).dinUsed, dinByte (katData + 0xaa) k = dinByte katData k) ∧ katData + 0xaa ≠ katData ∧
    (∀ k < (Instr.keyexp 0 16).dinUsed, dinByte (katData + 0xaa) k = dinByte katData k) := by decide +kernel

/-- A `KEYEXP` accepted, and a reset of a core with a key, change the key. -/
theorem witness_KeyChangedOnlyByKeyexpOrReset :
    (presented (Pins.command 0x1010 0)).SequencerIdle ∧
    step (presented (Pins.command 0x1010 0)) = .next (after 0x1010 0 State.reset) ∧
    ¬ (presented (Pins.command 0x1010 0)).SameKey (after 0x1010 0 State.reset) := by
  refine ⟨⟨rfl, rfl, rfl⟩, rfl, fun h => ?_⟩
  have h := h.2.2
  cases h

theorem witness_StateWrittenOnlyByItsCommands :
    exec .subbytes State.reset = .next (after 0x2000 0 State.reset |>.sample (Pins.command 0 0)) ∧
      (after 0x2000 0 State.reset |>.sample (Pins.command 0 0)).S ≠ State.reset.S :=
  ⟨rfl, by decide +kernel⟩

/-- The core with a response presented, and its sequencer idle. -/
def responding : State := after 0x3100 0 State.reset

/-- One witness for each clause: a response not taken, a response taken, nothing presented, a command presented. -/
theorem witness_PortHandshake :
    ((responding.withHost [Pins.quiet]).host = [Pins.quiet] ∧ Pins.quiet.rst = false ∧ responding.phase = .idle ∧
      responding.rnd = 0 ∧ responding.ki = 0 ∧ responding.rspValid = true ∧ Pins.quiet.rspReady = false) ∧
    (Pins.take.rst = false ∧ Pins.take.rspReady = true) ∧
    (State.reset.phase = .idle ∧ State.reset.rnd = 0 ∧ State.reset.ki = 0 ∧ State.reset.rspValid = false ∧
      Pins.quiet.cmdValid = false) ∧
    ((Pins.command 0x3100 0).rst = false ∧ (Pins.command 0x3100 0).cmdValid = true) := by decide +kernel

/-- A response presented and taken; a ready core without a trace, and a command that fails there. -/
theorem witness_DeliveredErrorLeavesNoTrace :
    ((responding.withHost [Pins.take]).host = Pins.take :: [] ∧ Pins.take.rst = false ∧ Pins.take.rspReady = true ∧
      (responding.withHost [Pins.take]).rspValid = true ∧ (responding.withHost [Pins.take]).inFlight = false) ∧
    (keyed128.cmdReady = true ∧ keyed128.rspErr = .ok ∧ keyed128.cmdWord = 0 ∧ (after 0x110B 0 keyed128).rspErr ≠ .ok) := by
  decide +kernel

theorem witness_RunAnswersEveryCommandInOrder : keyed128.cmdReady = true := by decide +kernel

/-- The keyed core with `ENC`, and with `DEC`, sampled. -/
theorem witness_SequencerRunsTheCipher :
    decode (keyed128.sample (Pins.command 0x4000 katData)).cmdWord = .ok .enc ∧
    decode (keyed128.sample (Pins.command 0x4100 katData)).cmdWord = .ok .dec ∧
    (keyed128.sample (Pins.command 0x4000 katData)).SequencerIdle ∧ (keyed128.sample (Pins.command 0x4000 katData)).kvalid = true ∧
    (keyed128.sample (Pins.command 0x4000 katData)).host = [] := ⟨rfl, rfl, ⟨rfl, rfl, rfl⟩, rfl, rfl⟩

theorem witness_SequencerRunsTheKeySchedule :
    decode (State.reset.sample (Pins.command 0x10A0 katData)).cmdWord = .ok (.keyexp KeySize.k256.code (4 * KeySize.k256.nk)) ∧
    (State.reset.sample (Pins.command 0x10A0 katData)).SequencerIdle ∧
    (State.reset.sample (Pins.command 0x10A0 katData)).host = [] := ⟨rfl, ⟨rfl, rfl, rfl⟩, rfl⟩

/-- H1, H2: a text that ends in a space and one that does not. -/
theorem witness_TextRoundTrip : keyed128.cmdReady = true ∧ keyed128.kvalid = true ∧
    (∀ c ∈ ['a', 'b', 'c', ' '], c.toNat ≤ 255) ∧ 0x20 ∈ Config.wsDefault ∧
    (∀ c, ['a', 'b', 'c'].getLast? = some c → byteOfChar c ∉ Config.wsDefault) := by
  refine ⟨by decide +kernel, by decide +kernel, ?_, by decide, ?_⟩
  · intro c h
    fin_cases h <;> decide
  · intro c h
    cases h
    decide

/-- H1: `encrypt` of a text completes, with the result the spec gives. -/
theorem witness_EncryptedTextLength : ((encryptText ['a', 'b', 'c'] keyed128).toOption.map fun r => r.2) =
    some "bcb68c8da7a8c882e5c8adfe6ecd3072".toList := by decide +kernel

/-- H8, H9, H11: a wrong length, a bad digit, and the empty text, which is well formed. -/
theorem witness_MalformedCiphertextExactly : "69c4".toList.length % 32 ≠ 0 ∧
    (∃ c ∈ "g9c4e0d86a7b0430d8cdb78070b4c55a".toList, c ∉ "0123456789abcdefABCDEF".toList) ∧
    ((decryptText Config.wsDefault [] keyed128).toOption.map fun r => r.2) = some [] := by
  refine ⟨by decide +kernel, ⟨'g', by decide +kernel, by decide +kernel⟩, by decide +kernel⟩

/-- Each clause: a size that is none, a length one off on either side, and the three that match. -/
theorem witness_ConstructionChecksTheKey : State.reset.cmdReady = true ∧ 64 ∉ [128, 192, 256] ∧ 257 ∉ [128, 192, 256] ∧
    (128 ∈ [128, 192, 256] ∧ 8 * 15 ≠ 128 ∧ 8 * 17 ≠ 128 ∧ 8 * 16 = 128) ∧
    (256 ∈ [128, 192, 256] ∧ 8 * (List.replicate 32 (0 : Byte)).length = 256) := by decide

end Sys2Proof.Tests
end

section
/-! The legal words, opcode by opcode (spec/30_encoding.md R81, R86, R87): which arguments each format takes, and how many. -/

namespace Sys2Proof

/-- The three formats of a command word (R81). -/
inductive WordFormat where
  | k
  | r
  | z
deriving DecidableEq

/-- The format of an opcode's row, if it is one of the 14 (R86). -/
def opcodeFormat (opcode : BitVec 8) : Option WordFormat :=
  if opcode = 0x10 then some .k
  else if opcode = 0x11 ∨ opcode = 0x26 then some .r
  else if (formatZTable.lookup opcode).isSome then some .z
  else none

/-- The arguments that are legal after an opcode of the given format (R87). -/
def legalArg (format : Option WordFormat) (arg : BitVec 8) : Bool :=
  match format with
  | some .k => true
  | some .r => zeroField arg == 0
  | some .z => arg == 0
  | none => false

/-- How many arguments are legal after an opcode of the given format (R87). -/
def legalArgCount (format : Option WordFormat) : Nat :=
  match format with
  | some .k => 256
  | some .r => 16
  | some .z => 1
  | none => 0

theorem decodeFormatR_isSome (arg : BitVec 8) (command : Nat → Instr) :
    (decodeFormatR arg command).toOption.isSome = legalArg (some .r) arg := by
  by_cases h : zeroField arg = 0#4 <;> simp [decodeFormatR, legalArg, h, Except.toOption]

theorem decodeFormatZ_isSome (opcode arg : BitVec 8) :
    (decodeFormatZ opcode arg).toOption.isSome =
      legalArg (if (formatZTable.lookup opcode).isSome then some .z else none) arg := by
  cases h : formatZTable.lookup opcode with
  | none => simp [decodeFormatZ, legalArg, h, Except.toOption]
  | some i => by_cases ha : arg = 0#8 <;> simp [decodeFormatZ, legalArg, h, ha, Except.toOption]

/-- A word decodes exactly when its argument is legal after its opcode (R87, R89). -/
theorem decode_isSome (w : BitVec 16) :
    (decode w).toOption.isSome = legalArg (opcodeFormat (opcodeField w)) (argField w) := by
  unfold decode opcodeFormat
  by_cases hk : opcodeField w = 0x10
  · simp [hk, legalArg, Except.toOption]
  by_cases h1 : opcodeField w = 0x11
  · simp [h1, decodeFormatR_isSome]
  by_cases h2 : opcodeField w = 0x26
  · simp [h2, decodeFormatR_isSome]
  simp only [hk, h1, h2, if_false, or_self, decodeFormatZ_isSome]

theorem exists_decode_eq_error_iff (w : BitVec 16) :
    (∃ e, decode w = .error e) ↔ legalArg (opcodeFormat (opcodeField w)) (argField w) = false := by
  rw [← decode_isSome]
  cases decode w <;> simp [Except.toOption]

theorem legalArg_eq_false_iff (format : Option WordFormat) (arg : BitVec 8) :
    legalArg format arg = false ↔
      format = none ∨ (format = some .z ∧ arg ≠ 0) ∨ (format = some .r ∧ zeroField arg ≠ 0) := by
  rcases format with _ | _ | _ | _ <;> simp [legalArg]

theorem opcodeFormat_eq_none_iff (opcode : BitVec 8) :
    opcodeFormat opcode = none ↔
      opcode ∉ [0x10, 0x11, 0x20, 0x21, 0x22, 0x23, 0x24, 0x25, 0x26, 0x27, 0x30, 0x31, 0x40, 0x41#8] := by
  revert opcode
  decide +kernel

theorem opcodeFormat_eq_z_iff (opcode : BitVec 8) :
    opcodeFormat opcode = some .z ↔
      opcode ∈ [0x20, 0x21, 0x22, 0x23, 0x24, 0x25, 0x27, 0x30, 0x31, 0x40, 0x41#8] := by
  revert opcode
  decide +kernel

theorem opcodeFormat_eq_r_iff (opcode : BitVec 8) : opcodeFormat opcode = some .r ↔ opcode ∈ [0x11, 0x26#8] := by
  revert opcode
  decide +kernel

/-- The must-be-zero field of format R in the word itself (R80, R81). -/
theorem zeroField_argField (w : BitVec 16) : zeroField (argField w) = w.extractLsb' 4 4 := by
  simp [zeroField, argField]

/-! ## The number of legal words -/

/-- Counting below `m * n` row by row, `n` numbers to a row. -/
theorem countP_range_mul (p : Nat → Bool) (m n : Nat) :
    (List.range (m * n)).countP p =
      ((List.range m).map fun i => (List.range n).countP fun j => p (i * n + j)).sum := by
  induction m with
  | zero => simp
  | succ m ih =>
    rw [Nat.succ_mul, List.range_add, List.countP_append, ih, List.countP_map, List.range_succ]
    simp [Function.comp_def]

theorem countP_legalArg (format : Option WordFormat) :
    ((List.range 256).countP fun j => legalArg format (BitVec.ofNat 8 j)) = legalArgCount format := by
  match format with
  | some .k => simp [legalArg, legalArgCount]
  | some .r => decide +kernel
  | some .z => decide +kernel
  | none => simp [legalArg, legalArgCount]

/-- A word from the numbers of its opcode and its argument (R80). -/
theorem ofNat_word {opcode arg : Nat} (h : arg < 256) :
    BitVec.ofNat 16 (opcode * 256 + arg) = (BitVec.ofNat 8 opcode ++ BitVec.ofNat 8 arg : BitVec 16) := by
  apply BitVec.eq_of_toNat_eq
  rw [BitVec.toNat_append, ← Nat.shiftLeft_add_eq_or_of_lt (BitVec.isLt _)]
  simp only [BitVec.toNat_ofNat, Nat.shiftLeft_eq]
  omega

theorem decode_ofNat_isSome {opcode arg : Nat} (h : arg < 256) :
    (decode (BitVec.ofNat 16 (opcode * 256 + arg))).toOption.isSome =
      legalArg (opcodeFormat (BitVec.ofNat 8 opcode)) (BitVec.ofNat 8 arg) := by
  rw [ofNat_word h, decode_isSome, opcodeField_append, argField_append]

theorem countP_decode_row (opcode : Nat) :
    ((List.range 256).countP fun j => (decode (BitVec.ofNat 16 (opcode * 256 + j))).toOption.isSome) =
      legalArgCount (opcodeFormat (BitVec.ofNat 8 opcode)) := by
  rw [← countP_legalArg]
  exact List.countP_congr fun j hj => by rw [decode_ofNat_isSome (List.mem_range.mp hj)]

theorem sum_legalArgCount :
    ((List.range 256).map fun i => legalArgCount (opcodeFormat (BitVec.ofNat 8 i))).sum = 299 := by
  decide +kernel

/-- The legal words number 299 (R87). -/
theorem countP_decode_isSome :
    ((List.range 65536).countP fun n => (decode (BitVec.ofNat 16 n)).toOption.isSome) = 299 := by
  rw [show 65536 = 256 * 256 from rfl, countP_range_mul]
  simp only [countP_decode_row, sum_legalArgCount]

end Sys2Proof

namespace Sys2Proof.Machine

/-! ## What an illegal word and a failing check answer -/

/-- An illegal word is answered with `IllegalCommand` and changes no state (R87, R245). -/
theorem perform_of_decode_eq_error {w : BitVec 16} {e : DecodeError} (h : decode w = .error e) (d : BitVec 256) (s : State) :
    ∃ t, perform w d s = .next t ∧ t.Answers .illegalCommand (fun _ => 0) ∧ s.SameArch t := by
  rcases perform_cases w d s with ⟨i, hi, -⟩ | ⟨-, -, hp⟩
  · simp [hi] at h
  · exact ⟨_, hp, ⟨rfl, rfl, fun k _ => by simp [doutByte]⟩, rfl, rfl, rfl, rfl⟩

theorem exec_keyexp_of_error {ksel : BitVec 2} {klen : Nat} {e : ErrCode} (h : keyexpCheck ksel klen = .error e) (s : State) :
    exec (.keyexp ksel klen) s = .next (s.raise e) := by
  simp [exec, execKeyexp, h]

theorem exec_rdrk_of_roundError {s : State} {round : Nat} {e : ErrCode} (h : s.roundError round = some e) :
    exec (.rdrk round) s = .next (s.raise e) := by
  simp [exec, execRdrk, h]

theorem exec_addroundkey_of_roundError {s : State} {round : Nat} {e : ErrCode} (h : s.roundError round = some e) :
    exec (.addroundkey round) s = .next (s.raise e) := by
  simp [exec, execAddroundkey, h]

theorem keyexpCheck_of_ksel_three (klen : Nat) : keyexpCheck 0b11 klen = .error .invalidKeySize := rfl

/-- A round above `Nr` is out of range, and without a key there is no key (R152, R178). -/
theorem State.roundError_of_nr_lt {s : State} {round : Nat} (h : s.ksel.nr < round) :
    s.roundError round = some (if s.kvalid then .roundOutOfRange else .noKey) := by
  rcases s.roundError_cases round with ⟨hv, he⟩ | ⟨hv, -, he⟩ | ⟨-, hr, -⟩
  · simp [he, hv]
  · simp [he, hv]
  · omega

end Sys2Proof.Machine

namespace Sys2Proof

open Machine

/-- Settles O12: the words are sorted by the format of their opcode, counted row by row of 256, and the failing commands are read
off the checks they make. -/
theorem illegalWordsAreExactly : Obligations.IllegalWordsAreExactly := by
  refine ⟨fun w => ?_, fun w d s e h => perform_of_decode_eq_error h d s, countP_decode_isSome, fun klen s => ?_,
    fun round s h => ?_⟩
  · rw [exists_decode_eq_error_iff, legalArg_eq_false_iff, opcodeFormat_eq_none_iff, opcodeFormat_eq_z_iff,
      opcodeFormat_eq_r_iff, zeroField_argField]
    rfl
  · exact ⟨_, exec_keyexp_of_error (keyexpCheck_of_ksel_three klen) s, rfl⟩
  · have he := State.roundError_of_nr_lt h
    exact ⟨⟨_, exec_rdrk_of_roundError he, rfl⟩, ⟨_, exec_addroundkey_of_roundError he, rfl⟩⟩

end Sys2Proof
end

section
/-! The multiplier as the product of a field (spec/41_galois_multiply.md R130): both factors distribute over XOR, so a law of
products has to be checked only on bytes of one bit. -/

namespace Sys2Proof

/-- Every bit vector is a XOR of single bits. -/
theorem bitVec_xor_induction {w : Nat} {p : BitVec w → Prop} (zero : p 0#w) (bit : ∀ i < w, p (BitVec.twoPow w i))
    (xor : ∀ x y, p x → p y → p (x ^^^ y)) (x : BitVec w) : p x := by
  have low : ∀ n ≤ w, p ((x.setWidth n).setWidth w) := by
    intro n hn
    induction n with
    | zero => simpa [BitVec.of_length_zero] using zero
    | succ n ih =>
      cases hx : x.getLsbD n with
      | false =>
        rw [BitVec.setWidth_setWidth_succ_eq_setWidth_setWidth_of_getLsbD_false hx]
        exact ih (by omega)
      | true =>
        have split : (x.setWidth (n + 1)).setWidth w = (x.setWidth n).setWidth w ^^^ BitVec.twoPow w n := by
          ext i hi
          rcases lt_trichotomy i n with h | rfl | h
          · simp [h, h.ne, Nat.lt_succ_of_lt h]
          · simpa [hi] using hx
          · simp [h.ne', show ¬ i < n + 1 by omega, show ¬ i < n by omega]
        rw [split]
        exact xor _ _ (ih (by omega)) (bit n (by omega))
  simpa using low w le_rfl

/-- One round of either loop of R130, `m` added under a bit, is linear in the bit and the running value together. -/
theorem ite_xor_xor {w : Nat} (b c : Bool) (x y m : BitVec w) :
    (if b ^^ c then x ^^^ y ^^^ m else x ^^^ y) = (if b then x ^^^ m else x) ^^^ (if c then y ^^^ m else y) := by
  match b, c with
  | false, false => rfl
  | false, true => exact BitVec.xor_assoc x y m
  | true, false => exact (by ac_rfl : x ^^^ y ^^^ m = x ^^^ m ^^^ y)
  | true, true => exact calc
      x ^^^ y = x ^^^ y ^^^ (m ^^^ m) := by simp
      _ = x ^^^ m ^^^ (y ^^^ m) := by ac_rfl

theorem clmul_xor_left (a b c : Byte) (n : Nat) : clmul (a ^^^ b) c n = clmul a c n ^^^ clmul b c n := by
  induction n with
  | zero => simp [clmul]
  | succ n ih =>
    simp only [clmul, ih, BitVec.setWidth_xor, BitVec.shiftLeft_xor_distrib]
    split
    · ac_rfl
    · rfl

theorem clmul_xor_right (a b c : Byte) (n : Nat) : clmul a (b ^^^ c) n = clmul a b n ^^^ clmul a c n := by
  induction n with
  | zero => simp [clmul]
  | succ n ih =>
    simp only [clmul, ih, BitVec.getLsbD_xor, ite_xor_xor]

theorem reduceFrom_xor (n : Nat) (p q : BitVec 15) : reduceFrom n (p ^^^ q) = reduceFrom n p ^^^ reduceFrom n q := by
  induction n generalizing p q with
  | zero => rfl
  | succ n ih =>
    simp only [reduceFrom, ← ih, BitVec.getLsbD_xor, ite_xor_xor]

theorem gmul_xor_left (a b c : Byte) : gmul (a ^^^ b) c = gmul a c ^^^ gmul b c := by
  simp [gmul, clmul_xor_left, reduceFrom_xor]

theorem gmul_xor_right (a b c : Byte) : gmul a (b ^^^ c) = gmul a b ^^^ gmul a c := by
  simp [gmul, clmul_xor_right, reduceFrom_xor]

@[simp] theorem gmul_zero_left (b : Byte) : gmul 0#8 b = 0#8 := by
  simpa using gmul_xor_left 0 0 b

@[simp] theorem gmul_zero_right (a : Byte) : gmul a 0#8 = 0#8 := by
  simpa using gmul_xor_right a 0 0

theorem gmul_comm (a b : Byte) : gmul a b = gmul b a := by
  induction a using bitVec_xor_induction with
  | zero => simp
  | xor x y hx hy => simp [gmul_xor_left, gmul_xor_right, hx, hy]
  | bit i hi =>
    induction b using bitVec_xor_induction with
    | zero => simp
    | xor x y hx hy => simp [gmul_xor_left, gmul_xor_right, hx, hy]
    | bit j hj =>
      revert i j
      decide +kernel

theorem gmul_assoc (a b c : Byte) : gmul (gmul a b) c = gmul a (gmul b c) := by
  induction a using bitVec_xor_induction with
  | zero => simp
  | xor x y hx hy => simp [gmul_xor_left, hx, hy]
  | bit i hi =>
    induction b using bitVec_xor_induction with
    | zero => simp
    | xor x y hx hy => simp [gmul_xor_left, gmul_xor_right, hx, hy]
    | bit j hj =>
      induction c using bitVec_xor_induction with
      | zero => simp
      | xor x y hx hy => simp [gmul_xor_right, hx, hy]
      | bit k hk =>
        revert i j k
        decide +kernel

theorem gmul_one_right (a : Byte) : gmul a 1 = a := by
  induction a using bitVec_xor_induction with
  | zero => simp
  | xor x y hx hy => rw [gmul_xor_left, hx, hy]
  | bit i hi =>
    revert i
    decide

theorem gmul_one_left (a : Byte) : gmul 1 a = a := by rw [gmul_comm, gmul_one_right]

/-- A byte has at most one inverse. -/
theorem gmul_eq_one_unique {b x y : Byte} (hx : gmul b x = 1) (hy : gmul b y = 1) : x = y :=
  calc
    x = gmul x (gmul b y) := by rw [hy, gmul_one_right]
    _ = gmul (gmul b x) y := by rw [← gmul_assoc, gmul_comm x b]
    _ = y := by rw [hx, gmul_one_left]

end Sys2Proof
end

section
/-! The construction of the S-box and the two tables as inverses (spec/40_lookup_tables.md R112, R114). -/

namespace Sys2Proof

/-- The affine step of R112: the four left rotations and 0x63. -/
def sboxAffine (x : Byte) : Byte :=
  x ^^^ x.rotateLeft 1 ^^^ x.rotateLeft 2 ^^^ x.rotateLeft 3 ^^^ x.rotateLeft 4 ^^^ 0x63

/-- The inverse of `sboxAffine`: rotations by 1, 3 and 6, and 0x05. -/
def sboxAffineInverse (y : Byte) : Byte :=
  y.rotateLeft 1 ^^^ y.rotateLeft 3 ^^^ y.rotateLeft 6 ^^^ 0x05

theorem sboxAffine_sboxAffineInverse : ∀ y, sboxAffine (sboxAffineInverse y) = y := by decide +kernel

/-- The table's entry, the affine step undone, is the inverse in the field: the one check of the 256 literals against `gmul`. -/
theorem gmul_sboxAffineInverse_sbox : ∀ b : Byte, b ≠ 0 → gmul b (sboxAffineInverse (SBOX b)) = 1 := by decide +kernel

theorem sbox_eq_sboxAffine_of_gmul_eq_one {b x : Byte} (h : gmul b x = 1) : SBOX b = sboxAffine x := by
  have hb : b ≠ 0 := by
    rintro rfl
    simp at h
  rw [gmul_eq_one_unique h (gmul_sboxAffineInverse_sbox b hb), sboxAffine_sboxAffineInverse]

/-- Settles O29: inverses are unique, so `x` is the one the table's entry was made from. -/
theorem sboxConstruction : Obligations.SboxConstruction := by
  refine ⟨fun b x h => ?_, fun b hb => ⟨_, gmul_sboxAffineInverse_sbox b hb⟩⟩
  rcases h with h | ⟨rfl, rfl⟩
  · exact sbox_eq_sboxAffine_of_gmul_eq_one h
  · decide

theorem invsbox_leftInverse_sbox : Function.LeftInverse INVSBOX SBOX := by
  unfold Function.LeftInverse
  decide +kernel

/-- An injective table of 256 bytes is a permutation, so a left inverse is a right one. -/
theorem invsbox_rightInverse_sbox : Function.RightInverse INVSBOX SBOX :=
  invsbox_leftInverse_sbox.rightInverse_of_surjective
    (Finite.surjective_of_injective invsbox_leftInverse_sbox.injective)

/-- Settles O30: the tables undo each other both ways, and so does the relation they share. -/
theorem inverseTables : Obligations.InverseTables := fun b y =>
  ⟨invsbox_leftInverse_sbox b, invsbox_rightInverse_sbox b,
    fun h => h ▸ invsbox_rightInverse_sbox y, fun h => h ▸ invsbox_leftInverse_sbox b⟩

end Sys2Proof
end

section
/-! The command `GFMUL`: its response and its frame from every state (spec/41_galois_multiply.md R134). -/

namespace Sys2Proof.Machine

/-- `respond(bytes)` is a success with the given bytes, padded with zeros (R17). -/
theorem State.answers_respond (s : State) (b : List Byte) : (s.respond b).Answers .ok fun k => b.getD k 0 :=
  ⟨rfl, rfl, fun _ hk => s.respond_dout b hk⟩

/-- A legal word at the port runs its command on the sampled state (R36, R89). -/
theorem perform_of_decode_eq_ok {w : BitVec 16} {i : Instr} (h : decode w = .ok i) (d : BitVec 256) (s : State) :
    perform w d s = exec i (s.sample (Pins.command w d)) := by
  simp [perform, h]

theorem decode_gfmul_word : decode 0x2700 = .ok .gfmul := by decide

/-- `GFMUL` is one `respond`, of one byte (R134). -/
theorem exec_gfmul (s : State) : exec .gfmul s = .next (s.respond [gmul (dinByte s.din 0) (dinByte s.din 1)]) := rfl

/-- At the port the factors are the data presented with the word (R36). -/
theorem perform_gfmul_word (d : BitVec 256) (s : State) :
    perform 0x2700 d s = .next ((s.sample (Pins.command 0x2700 d)).respond [gmul (dinByte d 0) (dinByte d 1)]) :=
  perform_of_decode_eq_ok decode_gfmul_word d s

end Sys2Proof.Machine

namespace Sys2Proof

open Machine

/-- One byte padded with zeros, byte by byte (R17). -/
theorem getD_singleton_zero (x : Byte) (k : Nat) : [x].getD k 0 = if k = 0 then x else 0 := by
  cases k with
  | zero => rfl
  | succ n => simp

/-- Settles O20: `GFMUL` is one `respond` of one byte; the corner cases are laws of the product. -/
theorem gfmulResult : Obligations.GfmulResult := by
  refine ⟨decode_gfmul_word, fun s => ⟨_, exec_gfmul s, ?_, s.sameArch_respond _, s.sameRest_respond _⟩,
    fun a => ⟨gmul_zero_right a, gmul_zero_left a, gmul_one_right a⟩, by decide, by decide, fun s => ?_⟩
  · simpa only [getD_singleton_zero] using s.answers_respond [gmul (dinByte s.din 0) (dinByte s.din 1)]
  · refine ⟨_, perform_gfmul_word _ s, State.respond_rspErr _ _, ?_⟩
    rw [State.respond_rspData, dinByte_packDin _ (by decide), dinByte_packDin _ (by decide)]
    decide

end Sys2Proof
end

section
/-! The word functions of the key schedule (spec/42_key_schedule.md R141, R143, R144). -/

namespace Sys2Proof

/-- Rotating left by the length of the leading part moves that part to the other end. -/
theorem rotateLeft_append {v w : Nat} (hw : 0 < w) (a : BitVec v) (x : BitVec w) :
    (a ++ x).rotateLeft v = (x ++ a).cast (Nat.add_comm w v) := by
  ext i hi
  have hv : v % (v + w) = v := Nat.mod_eq_of_lt (by omega)
  by_cases h : i < v
  · simp [BitVec.getElem_rotateLeft, BitVec.getElem_append, hv, h]
  · simp [BitVec.getElem_rotateLeft, BitVec.getElem_append, hv, h, show i - v < w by omega]

/-- The packed word as its byte 0 and the three others. -/
theorem toBits_eq_append (w : Word) : w.toBits = w.b0 ++ (w.b1 ++ w.b2 ++ w.b3) :=
  calc
    w.toBits = w.b0 ++ (w.b1 ++ w.b2) ++ w.b3 := congrArg (· ++ w.b3) BitVec.append_assoc
    _ = w.b0 ++ (w.b1 ++ w.b2 ++ w.b3) := BitVec.append_assoc

/-- `RotWord` rotates the packed number left by 8 bits (R141). -/
theorem toBits_rotWord (w : Word) : (rotWord w).toBits = w.toBits.rotateLeft 8 :=
  calc
    (rotWord w).toBits = w.b1 ++ w.b2 ++ w.b3 ++ w.b0 := rfl
    _ = (w.b0 ++ (w.b1 ++ w.b2 ++ w.b3)).rotateLeft 8 := (rotateLeft_append (by decide) _ _).symm
    _ = w.toBits.rotateLeft 8 := congrArg (BitVec.rotateLeft · 8) (toBits_eq_append w).symm

theorem subWord_byte (w : Word) (j : Fin 4) : (subWord w).byte j = SBOX (w.byte j) := by
  fin_cases j <;> rfl

/-- The round constant touches byte 0 only (R144). -/
theorem xor_rconWord (w : Word) (k : Nat) : w.xor (rconWord k) = ⟨w.b0 ^^^ RCON k, w.b1, w.b2, w.b3⟩ := by
  simp [Word.xor, rconWord]

/-- Settles O33: the rotation moves the packed word's first byte to its end; the other clauses are read off the bytes. -/
theorem wordFunctions : Obligations.WordFunctions :=
  ⟨fun _ _ _ _ => rfl, toBits_rotWord, fun _ => rfl, rfl, rfl, subWord_byte, by decide, by decide, by decide,
    fun _ _ => rfl, fun w k _ => xor_rconWord w k⟩

end Sys2Proof
end

section
/-! The command `KEYEXP`: its words, the key it loads and its frame, and the state of the spec's examples
(spec/42_key_schedule.md R146, R149). -/

namespace Sys2Proof

/-- After opcode 0x10 every argument is a `KEYEXP` (R81, R87). -/
theorem decode_keyexp_append (arg : BitVec 8) :
    decode (0x10#8 ++ arg : BitVec 16) = .ok (.keyexp (kselField arg) (klenField arg)) := by
  simp [decode]

theorem kselField_ofNat (ksel : BitVec 2) {klen : Nat} (h : klen < 64) :
    kselField (BitVec.ofNat 8 (64 * ksel.toNat + klen)) = ksel := by
  have := ksel.isLt
  apply BitVec.eq_of_toNat_eq
  simp only [kselField, BitVec.extractLsb'_toNat, BitVec.toNat_ofNat, Nat.shiftRight_eq_div_pow]
  omega

theorem klenField_ofNat (ksel : BitVec 2) {klen : Nat} (h : klen < 64) :
    klenField (BitVec.ofNat 8 (64 * ksel.toNat + klen)) = klen := by
  have := ksel.isLt
  simp only [klenField, BitVec.extractLsb'_toNat, BitVec.toNat_ofNat, Nat.shiftRight_zero]
  omega

/-- The words of `KEYEXP` (R149). -/
theorem decode_keyexp_word (ksel : BitVec 2) {klen : Nat} (h : klen < 64) :
    decode (BitVec.ofNat 16 (0x1000 + 64 * ksel.toNat + klen)) = .ok (.keyexp ksel klen) := by
  have := ksel.isLt
  rw [show 0x1000 + 64 * ksel.toNat + klen = 0x10 * 256 + (64 * ksel.toNat + klen) by omega, ofNat_word (by omega),
    decode_keyexp_append, kselField_ofNat ksel h, klenField_ofNat ksel h]

/-- Word `i` of the key is its bytes `4i` to `4i+3` (R52). -/
theorem dinKeyWord_byte (d : BitVec 256) (i : Nat) (j : Fin 4) : (dinKeyWord d i).byte j = dinByte d (4 * i + j.val) := by
  fin_cases j <;> rfl

end Sys2Proof

namespace Sys2Proof.Machine

/-- The state a successful `KEYEXP` of size `k` leaves (R149). -/
def State.keyExpanded (s : State) (k : KeySize) : State :=
  (s.loadKey k (keyMemory k (dinKeyWord s.din))).respond []

theorem exec_keyexp_of_ok {ksel : BitVec 2} {klen : Nat} {k : KeySize} (h : keyexpCheck ksel klen = .ok k) (s : State) :
    exec (.keyexp ksel klen) s = .next (s.keyExpanded k) := by
  simp [exec, execKeyexp, h, State.keyExpanded]

/-- The request of each size with its matching length passes the checks (R149). -/
theorem keyexpCheck_code (k : KeySize) : keyexpCheck k.code (4 * k.nk) = .ok k :=
  keyexpCheck_eq_ok_iff.mpr ⟨rfl, rfl⟩

theorem keyexpCheck_of_klen_ne {k : KeySize} {klen : Nat} (h : klen ≠ 4 * k.nk) :
    keyexpCheck k.code klen = .error .invalidKeyMaterial := by
  simp [keyexpCheck, h]

theorem State.keyExpanded_word (s : State) (k : KeySize) (i : Nat) :
    (s.keyExpanded k).word i = (expand k (dinKeyWord s.din)).getD i Word.zero :=
  State.word_keyMemory rfl i

theorem State.keyExpanded_word_of_lt_nk (s : State) {k : KeySize} {i : Nat} (h : i < k.nk) :
    (s.keyExpanded k).word i = dinKeyWord s.din i := by
  rw [State.keyExpanded_word, expand_key k _ h]

/-- The recurrence of R146 holds on `W` itself. -/
theorem State.keyExpanded_word_step (s : State) {k : KeySize} {i : Nat} (h : k.nk ≤ i) (hi : i < k.words) :
    (s.keyExpanded k).word i =
      ((s.keyExpanded k).word (i - k.nk)).xor (scheduleTemp k.nk i ((s.keyExpanded k).word (i - 1))) := by
  simpa only [State.keyExpanded_word] using expand_step k (dinKeyWord s.din) h hi

theorem State.keyExpanded_word_tail (s : State) {k : KeySize} {i : Nat} (h : k.words ≤ i) :
    (s.keyExpanded k).word i = Word.zero := by
  rw [State.keyExpanded_word, expand_tail k _ h]

theorem State.answersOk_keyExpanded (s : State) (k : KeySize) : (s.keyExpanded k).AnswersOk := State.answersOk_respond _

theorem State.sameRest_keyExpanded (s : State) (k : KeySize) : s.SameRest (s.keyExpanded k) :=
  ⟨rfl, rfl, rfl, rfl, rfl, rfl, rfl⟩

/-- The key of the spec's examples, as command data. -/
def exampleKeyData : BitVec 256 := blockData 0x000102030405060708090a0b0c0d0e0f

/-- The state the spec's examples start from. -/
def exampleKeyState : State := (State.reset.sample (Pins.command 0x1010 exampleKeyData)).keyExpanded .k128

theorem holdsExampleKey_exampleKeyState : exampleKeyState.HoldsExampleKey :=
  (perform_of_decode_eq_ok (decode_keyexp_word 0 (klen := 16) (by decide)) exampleKeyData State.reset).trans
    (exec_keyexp_of_ok (keyexpCheck_code .k128) _)

end Sys2Proof.Machine

namespace Sys2Proof

open Machine

/-- Settles O24: `W` holds `Expand` of the key, whose laws are the clauses; the two errors are the two checks. -/
theorem keyexpResult : Obligations.KeyexpResult := by
  refine ⟨fun ksel _ h => decode_keyexp_word ksel h, fun s k => ?_,
    fun s klen => State.failsWith_of_raise (exec_keyexp_of_error (keyexpCheck_of_ksel_three klen) s),
    fun s k _ h => State.failsWith_of_raise (exec_keyexp_of_error (keyexpCheck_of_klen_ne h) s),
    exampleKeyState, holdsExampleKey_exampleKeyState, rfl, rfl, by decide +kernel, by decide +kernel, by decide +kernel,
    fun _ h _ => State.keyExpanded_word_tail _ h, State.answersOk_keyExpanded _ _⟩
  refine ⟨_, exec_keyexp_of_ok (keyexpCheck_code k) s, fun i h j => ?_, fun _ h hi => s.keyExpanded_word_step h hi,
    fun _ h _ => s.keyExpanded_word_tail h, rfl, rfl, rfl, s.answersOk_keyExpanded k, s.sameRest_keyExpanded k⟩
  rw [s.keyExpanded_word_of_lt_nk h, dinKeyWord_byte]

end Sys2Proof
end

section
/-! The command `RDRK`: its words, the round key it answers with and its frame (spec/42_key_schedule.md R152). -/

namespace Sys2Proof.Machine

/-- The words of `RDRK` (R152). -/
theorem decode_rdrk_word : ∀ round, round < 16 → decode (BitVec.ofNat 16 (0x1100 + round)) = .ok (.rdrk round) := by decide

/-- With a key and a round of it, `RDRK` is one `respond` (R152). -/
theorem exec_rdrk_of_le_nr {s : State} {round : Nat} (hv : s.kvalid = true) (h : round ≤ s.ksel.nr) :
    exec (.rdrk round) s = .next (s.respond (s.roundKeyBytes round)) := by
  simp [exec, execRdrk, (s.roundError_eq_none_iff round).mpr ⟨hv, h⟩]

theorem State.rdrk_failsWith_noKey {s : State} (hv : s.kvalid = false) (round : Nat) :
    s.FailsWith (.rdrk round) .noKey :=
  State.failsWith_of_raise (exec_rdrk_of_roundError (by simp [State.roundError, hv]))

theorem State.rdrk_failsWith_roundOutOfRange {s : State} {round : Nat} (hv : s.kvalid = true) (h : s.ksel.nr < round) :
    s.FailsWith (.rdrk round) .roundOutOfRange :=
  State.failsWith_of_raise (exec_rdrk_of_roundError (by simp [State.roundError_of_nr_lt h, hv]))

/-- Byte `4*c + j` of the response is byte `j` of word `4*round + c` (R152). -/
theorem State.respond_roundKeyBytes_dout (s : State) (round : Nat) (c j : Fin 4) :
    doutByte (s.respond (s.roundKeyBytes round)).rspData (4 * c.val + j.val) = (s.word (4 * round + c.val)).byte j := by
  rw [State.respond_dout _ _ (by omega), State.roundKeyBytes_getD]

end Sys2Proof.Machine

namespace Sys2Proof

open Machine

/-- Settles O19: with a key and a round of it `RDRK` is one `respond` of the round key's bytes, and otherwise one `raise`. -/
theorem rdrkResult : Obligations.RdrkResult := by
  refine ⟨decode_rdrk_word,
    fun s round hv h => ⟨_, exec_rdrk_of_le_nr hv h, rfl, rfl, s.respond_roundKeyBytes_dout round, s.sameArch_respond _,
      s.sameRest_respond _⟩,
    fun s round hv => State.rdrk_failsWith_noKey hv round, fun s round hv h => State.rdrk_failsWith_roundOutOfRange hv h,
    exampleKeyState, _, _, holdsExampleKey_exampleKeyState, exec_rdrk_of_le_nr rfl (by decide), ?_,
    exec_rdrk_of_le_nr rfl (by decide), ?_, State.rdrk_failsWith_roundOutOfRange rfl (by decide)⟩
  · decide +kernel
  · decide +kernel

end Sys2Proof
end

section
/-! The State transforms as commands: how each ends well, and the two byte substitutions (spec/43_state_transforms.md R160,
R163). -/

namespace Sys2Proof.Machine

/-- Writing the State and responding without data leaves the key and the rest alone and answers OK (R17). -/
theorem State.frame_setS_respond (s : State) (m : Mat4) :
    s.SameKey ((s.setS m).respond []) ∧ ((s.setS m).respond []).AnswersOk ∧ s.SameRest ((s.setS m).respond []) :=
  ⟨s.sameKey_setS_respond m [], State.answersOk_respond _, s.sameRest_setS_respond m []⟩

/-- An example of a command that applies the transform `f` from every state: `f` takes the one block to the other. -/
theorem State.mapsBlock_of_exec {i : Instr} {f : Mat4 → Mat4} (hi : ∀ s, exec i s = .next ((s.setS (f s.S)).respond []))
    (s : State) {a b : BitVec 128} (hf : f (Mat4.ofBlock (doutByte a)) = Mat4.ofBlock (doutByte b)) : s.MapsBlock i a b :=
  ⟨_, hi _, State.answersOk_respond _, hf⟩

/-- `SUBBYTES` writes the State and responds (R160). -/
theorem exec_subbytes (s : State) : exec .subbytes s = .next ((s.setS (subBytes s.S)).respond []) := rfl

/-- `INVSUBBYTES` writes the State and responds (R163). -/
theorem exec_invsubbytes (s : State) : exec .invsubbytes s = .next ((s.setS (invSubBytes s.S)).respond []) := rfl

end Sys2Proof.Machine

namespace Sys2Proof

open Machine

/-- Settles O15: each command writes its transform of the State and responds; the cells are the transform's own law. -/
theorem subBytesResult : Obligations.SubBytesResult :=
  ⟨by decide, by decide, fun s =>
    ⟨⟨_, exec_subbytes s, subBytes_get s.S, s.frame_setS_respond _⟩,
      ⟨_, exec_invsubbytes s, invSubBytes_get s.S, s.frame_setS_respond _⟩,
      State.mapsBlock_of_exec exec_subbytes s (by decide +kernel),
      State.mapsBlock_of_exec exec_subbytes s (by decide +kernel),
      State.mapsBlock_of_exec exec_subbytes s (by decide +kernel),
      State.mapsBlock_of_exec exec_invsubbytes s (by decide +kernel),
      State.mapsBlock_of_exec exec_invsubbytes s (by decide +kernel),
      State.mapsBlock_of_exec exec_invsubbytes s (by decide +kernel)⟩⟩

end Sys2Proof
end

section
/-! The row shifts (spec/43_state_transforms.md R166, R169): on the block, multiplications of the byte's index modulo 16. -/

namespace Sys2Proof

/-- Block byte `r + 4*c` moves from `r + 4*(c + r)`, which is five times its index modulo 16 (R166). -/
theorem shiftRows_blockByte (m : Mat4) (k : Nat) : (shiftRows m).blockByte k = m.blockByte (5 * k % 16) := by
  have hr : k % 4 = 5 * k % 16 % 4 := by omega
  have hc : (k / 4 % 4 + k % 4 % 4) % 4 = 5 * k % 16 / 4 % 4 := by omega
  rw [Mat4.blockByte, shiftRows_get, Mat4.blockByte, ← hr]
  exact congrArg _ (Fin.ext hc)

/-- 13 is the inverse of 5 modulo 16, and `-r` goes with it (R169). -/
theorem invShiftRows_blockByte (m : Mat4) (k : Nat) : (invShiftRows m).blockByte k = m.blockByte (13 * k % 16) := by
  have hr : k % 4 = 13 * k % 16 % 4 := by omega
  have hc : (4 - k % 4 % 4 + k / 4 % 4) % 4 = 13 * k % 16 / 4 % 4 := by omega
  rw [Mat4.blockByte, invShiftRows_get, Mat4.blockByte, ← hr]
  exact congrArg _ (Fin.ext hc)

/-- The permutation of R166: its list is `5 * k % 16` for `k` from 0 to 15, by computation. -/
theorem shiftRows_block (m : Mat4) :
    (shiftRows m).block = [0, 5, 10, 15, 4, 9, 14, 3, 8, 13, 2, 7, 12, 1, 6, 11].map m.blockByte :=
  List.map_congr_left fun k _ => shiftRows_blockByte m k

/-- The permutation of R169: its list is `13 * k % 16` for `k` from 0 to 15, by computation. -/
theorem invShiftRows_block (m : Mat4) :
    (invShiftRows m).block = [0, 13, 10, 7, 4, 1, 14, 11, 8, 5, 2, 15, 12, 9, 6, 3].map m.blockByte :=
  List.map_congr_left fun k _ => invShiftRows_blockByte m k

/-- `SHIFTROWS` with the sum of the column and the row written out (R166). -/
theorem shiftRows_get_mod (m : Mat4) (r c : Fin 4) :
    (shiftRows m).get r c = m.get r ⟨(c.val + r.val) % 4, Nat.mod_lt _ (by decide)⟩ :=
  shiftRows_get m r c

/-- `INVSHIFTROWS` with the non-negative remainder of the difference written out (R169). -/
theorem invShiftRows_get_mod (m : Mat4) (r c : Fin 4) :
    (invShiftRows m).get r c = m.get r ⟨(c.val + 4 - r.val) % 4, Nat.mod_lt _ (by decide)⟩ := by
  have hc : (4 - r.val + c.val) % 4 = (c.val + 4 - r.val) % 4 := by omega
  rw [invShiftRows_get]
  exact congrArg _ (Fin.ext hc)

end Sys2Proof

namespace Sys2Proof.Machine

/-- `SHIFTROWS` writes the State and responds (R166). -/
theorem exec_shiftrows (s : State) : exec .shiftrows s = .next ((s.setS (shiftRows s.S)).respond []) := rfl

/-- `INVSHIFTROWS` writes the State and responds (R169). -/
theorem exec_invshiftrows (s : State) : exec .invshiftrows s = .next ((s.setS (invShiftRows s.S)).respond []) := rfl

end Sys2Proof.Machine

namespace Sys2Proof

open Machine

/-- Settles O16: each command writes its transform of the State and responds; cells and block are the transform's own laws. -/
theorem shiftRowsResult : Obligations.ShiftRowsResult :=
  ⟨by decide, by decide, fun s =>
    ⟨⟨_, exec_shiftrows s, shiftRows_get_mod s.S, shiftRows_block s.S, s.frame_setS_respond _⟩,
      ⟨_, exec_invshiftrows s, invShiftRows_get_mod s.S, invShiftRows_block s.S, s.frame_setS_respond _⟩,
      State.mapsBlock_of_exec exec_shiftrows s (by decide +kernel),
      State.mapsBlock_of_exec exec_shiftrows s (by decide +kernel),
      State.mapsBlock_of_exec exec_invshiftrows s (by decide +kernel)⟩⟩

end Sys2Proof
end

section
/-! The column mixes (spec/43_state_transforms.md R172, R175): their rows, and what distributivity of the product gives. -/

namespace Sys2Proof

/-- A column mix is linear over XOR, since the product distributes over it. -/
theorem mixWith_get_xor (f : Fin 4 → Byte) {a b x : Mat4} (h : ∀ r c, x.get r c = a.get r c ^^^ b.get r c) (r c : Fin 4) :
    (mixWith f x).get r c = (mixWith f a).get r c ^^^ (mixWith f b).get r c := by
  simp only [mixWith, Mat4.get_ofFn, h, gmul_xor_right]
  ac_rfl

/-- On a column of four equal bytes every row is the byte times the XOR of the coefficients. -/
theorem mixWith_get_of_equal (f : Fin 4 → Byte) {m : Mat4} {c : Fin 4} {x : Byte} (h : ∀ r, m.get r c = x) (r : Fin 4) :
    (mixWith f m).get r c = gmul (f 0 ^^^ f 1 ^^^ f 2 ^^^ f 3) x := by
  simp only [gmul_xor_left]
  fin_cases r
  · exact (mixWith_get_0 f m c).trans (by simp only [h])
  · exact (mixWith_get_1 f m c).trans (by simp only [h]; ac_rfl)
  · exact (mixWith_get_2 f m c).trans (by simp only [h]; ac_rfl)
  · exact (mixWith_get_3 f m c).trans (by simp only [h]; ac_rfl)

/-- Coefficients whose XOR is 1 leave a column of four equal bytes as it is. -/
theorem mixWith_get_of_equal_of_xor_eq_one {f : Fin 4 → Byte} (hf : f 0 ^^^ f 1 ^^^ f 2 ^^^ f 3 = 1) {m : Mat4} {c : Fin 4}
    (h : ∀ r, m.get r c = m.get 0 c) (r : Fin 4) : (mixWith f m).get r c = m.get r c := by
  rw [mixWith_get_of_equal f h, hf, gmul_one_left, h r]

theorem xor_mixCoeff : mixCoeff 0 ^^^ mixCoeff 1 ^^^ mixCoeff 2 ^^^ mixCoeff 3 = 1 := by decide

theorem xor_invMixCoeff : invMixCoeff 0 ^^^ invMixCoeff 1 ^^^ invMixCoeff 2 ^^^ invMixCoeff 3 = 1 := by decide

/-- The rows of MixColumns (R172): the coefficient 1 drops out. -/
theorem mixColumns_get_0 (m : Mat4) (c : Fin 4) :
    (mixColumns m).get 0 c = gmul 2 (m.get 0 c) ^^^ gmul 3 (m.get 1 c) ^^^ m.get 2 c ^^^ m.get 3 c := by
  simp only [mixColumns, mixWith_get_0, mixCoeff, gmul_one_left]

theorem mixColumns_get_1 (m : Mat4) (c : Fin 4) :
    (mixColumns m).get 1 c = m.get 0 c ^^^ gmul 2 (m.get 1 c) ^^^ gmul 3 (m.get 2 c) ^^^ m.get 3 c := by
  simp only [mixColumns, mixWith_get_1, mixCoeff, gmul_one_left]

theorem mixColumns_get_2 (m : Mat4) (c : Fin 4) :
    (mixColumns m).get 2 c = m.get 0 c ^^^ m.get 1 c ^^^ gmul 2 (m.get 2 c) ^^^ gmul 3 (m.get 3 c) := by
  simp only [mixColumns, mixWith_get_2, mixCoeff, gmul_one_left]

theorem mixColumns_get_3 (m : Mat4) (c : Fin 4) :
    (mixColumns m).get 3 c = gmul 3 (m.get 0 c) ^^^ m.get 1 c ^^^ m.get 2 c ^^^ gmul 2 (m.get 3 c) := by
  simp only [mixColumns, mixWith_get_3, mixCoeff, gmul_one_left]

end Sys2Proof

namespace Sys2Proof.Machine

/-- `MIXCOLUMNS` writes the State and responds (R172). -/
theorem exec_mixcolumns (s : State) : exec .mixcolumns s = .next ((s.setS (mixColumns s.S)).respond []) := rfl

/-- `INVMIXCOLUMNS` writes the State and responds (R175). -/
theorem exec_invmixcolumns (s : State) : exec .invmixcolumns s = .next ((s.setS (invMixColumns s.S)).respond []) := rfl

end Sys2Proof.Machine

namespace Sys2Proof

open Machine

/-- Settles O17: each command writes its transform of the State and responds; the equal column and linearity come from
distributivity of the product. -/
theorem mixColumnsResult : Obligations.MixColumnsResult :=
  ⟨by decide, by decide, fun s =>
    ⟨⟨_, exec_mixcolumns s, mixColumns_get_0 s.S, mixColumns_get_1 s.S, mixColumns_get_2 s.S, mixColumns_get_3 s.S,
        fun _ => mixWith_get_of_equal_of_xor_eq_one xor_mixCoeff, s.frame_setS_respond _⟩,
      ⟨_, exec_invmixcolumns s, mixWith_get_0 invMixCoeff s.S, mixWith_get_1 invMixCoeff s.S, mixWith_get_2 invMixCoeff s.S,
        mixWith_get_3 invMixCoeff s.S, fun _ => mixWith_get_of_equal_of_xor_eq_one xor_invMixCoeff, s.frame_setS_respond _⟩,
      fun a b x h => ⟨_, _, _, exec_mixcolumns _, exec_mixcolumns _, exec_mixcolumns _, mixWith_get_xor mixCoeff h⟩,
      State.mapsBlock_of_exec exec_mixcolumns s (by decide +kernel),
      State.mapsBlock_of_exec exec_mixcolumns s (by decide +kernel),
      State.mapsBlock_of_exec exec_invmixcolumns s (by decide +kernel)⟩⟩

end Sys2Proof
end

section
/-! The command `ADDROUNDKEY`: its words, its result and its frame, its errors (spec/43_state_transforms.md R178). -/

namespace Sys2Proof

/-- The same round key twice gives the State back (R178). -/
@[simp] theorem addRoundKey_addRoundKey (key m : Mat4) : addRoundKey key (addRoundKey key m) = m :=
  Mat4.ext_get fun r c => by simp

end Sys2Proof

namespace Sys2Proof.Machine

/-- The words of `ADDROUNDKEY` (R178). -/
theorem decode_addroundkey_word :
    ∀ round, round < 16 → decode (BitVec.ofNat 16 (0x2600 + round)) = .ok (.addroundkey round) := by decide

/-- With a key and a round of it, `ADDROUNDKEY` writes the State and responds (R178). -/
theorem exec_addroundkey_of_le_nr {s : State} {round : Nat} (hv : s.kvalid = true) (h : round ≤ s.ksel.nr) :
    exec (.addroundkey round) s = .next ((s.setS (addRoundKey (s.roundKey round) s.S)).respond []) := by
  simp [exec, execAddroundkey, (s.roundError_eq_none_iff round).mpr ⟨hv, h⟩]

/-- The cell `S[r][c]` takes byte `r` of word `4*round + c` (R178). -/
theorem State.addRoundKey_roundKey_get (s : State) (round : Nat) (m : Mat4) (r c : Fin 4) :
    (addRoundKey (s.roundKey round) m).get r c = m.get r c ^^^ (s.word (4 * round + c.val)).byte r := by
  rw [addRoundKey_get, State.roundKey_get]

theorem State.addroundkey_failsWith_noKey {s : State} (hv : s.kvalid = false) (round : Nat) :
    s.FailsWith (.addroundkey round) .noKey :=
  State.failsWith_of_raise (exec_addroundkey_of_roundError (by simp [State.roundError, hv]))

theorem State.addroundkey_failsWith_roundOutOfRange {s : State} {round : Nat} (hv : s.kvalid = true)
    (h : s.ksel.nr < round) : s.FailsWith (.addroundkey round) .roundOutOfRange :=
  State.failsWith_of_raise (exec_addroundkey_of_roundError (by simp [State.roundError_of_nr_lt h, hv]))

/-- An example of `ADDROUNDKEY`: the XOR with the round key takes the one block to the other. -/
theorem State.addroundkey_mapsBlock {s : State} {round : Nat} (hv : s.kvalid = true) (hr : round ≤ s.ksel.nr)
    {a b : BitVec 128} (h : addRoundKey (s.roundKey round) (Mat4.ofBlock (doutByte a)) = Mat4.ofBlock (doutByte b)) :
    s.MapsBlock (.addroundkey round) a b :=
  ⟨_, exec_addroundkey_of_le_nr (s := s.setS _) hv hr, State.answersOk_respond _, h⟩

end Sys2Proof.Machine

namespace Sys2Proof

open Machine

/-- Settles O18: with a key and a round of it `ADDROUNDKEY` writes the State and responds, and otherwise raises; the key it leaves
alone, so done twice it XORs the same round key. -/
theorem addRoundKeyResult : Obligations.AddRoundKeyResult := by
  refine ⟨decode_addroundkey_word, fun s round hv h => ?_, fun s round hv => State.addroundkey_failsWith_noKey hv round,
    fun s round hv h => State.addroundkey_failsWith_roundOutOfRange hv h, exampleKeyState, holdsExampleKey_exampleKeyState,
    State.addroundkey_mapsBlock rfl (by decide) (by decide +kernel),
    State.addroundkey_mapsBlock rfl (by decide) (by decide +kernel)⟩
  exact ⟨_, _, exec_addroundkey_of_le_nr hv h, s.addRoundKey_roundKey_get round s.S, s.sameKey_setS_respond _ _,
    State.answersOk_respond _, s.sameRest_setS_respond _ _, exec_addroundkey_of_le_nr hv h,
    addRoundKey_addRoundKey (s.roundKey round) s.S⟩

end Sys2Proof
end

section
/-! The commands `LDSTATE` and `RDSTATE`: a block into the State and out of it, in column-major order
(spec/44_cipher_engine.md R190, R191, R193). -/

namespace Sys2Proof

/-- The cell `S[r][c]` of the block in `DIN` is `DIN[r + 4*c]` (R191). -/
theorem dinBlock_get (d : BitVec 256) (r c : Fin 4) : (dinBlock d).get r c = dinByte d (r.val + 4 * c.val) :=
  Mat4.get_ofBlock _ r c

end Sys2Proof

namespace Sys2Proof.Machine

theorem decode_ldstate_word : decode 0x3000 = .ok .ldstate := by decide

theorem decode_rdstate_word : decode 0x3100 = .ok .rdstate := by decide

/-- `LDSTATE` writes the State and responds (R191). -/
theorem exec_ldstate (s : State) : exec .ldstate s = .next ((s.setS (dinBlock s.din)).respond []) := rfl

/-- At the port the block loaded is the one presented with the word (R36, R191). -/
theorem perform_ldstate_word (d : BitVec 256) (s : State) :
    perform 0x3000 d s = .next (((s.sample (Pins.command 0x3000 d)).setS (dinBlock d)).respond []) :=
  perform_of_decode_eq_ok decode_ldstate_word d s

/-- `RDSTATE` is one `respond`, of the State's block (R193). -/
theorem exec_rdstate (s : State) : exec .rdstate s = .next (s.respond s.S.block) := rfl

/-- Byte `r + 4*c` of a response that is a State's block is its cell `S[r][c]` (R193). -/
theorem State.respond_block_dout (s : State) (m : Mat4) (r c : Fin 4) :
    doutByte (s.respond m.block).rspData (r.val + 4 * c.val) = m.get r c := by
  have hk : r.val + 4 * c.val < 16 := by omega
  rw [State.respond_dout _ _ hk, Mat4.block_getD m hk, Mat4.blockByte_index]

end Sys2Proof.Machine

namespace Sys2Proof

open Machine

/-- Settles O21: `LDSTATE` writes the block in `DIN` and responds, `RDSTATE` responds the State's block; the cells are those of the
block's column-major order. -/
theorem stateAccessResult : Obligations.StateAccessResult := by
  refine ⟨decode_ldstate_word, decode_rdstate_word, fun s => ⟨?load, ?read⟩,
    fun s => ⟨_, _, perform_ldstate_word _ s, rfl, rfl, rfl, rfl, exec_rdstate _, ?exampleBlock⟩, _, exec_rdstate _, rfl, by decide⟩
  case load => exact ⟨_, exec_ldstate s, dinBlock_get s.din, s.frame_setS_respond _⟩
  case read => exact ⟨_, exec_rdstate s, rfl, rfl, s.respond_block_dout s.S, s.sameArch_respond _, s.sameRest_respond _⟩
  case exampleBlock =>
    rw [State.respond_rspData, State.respond_S, State.setS_S]
    decide +kernel

end Sys2Proof
end

section
/-! The block commands `ENC` and `DEC` in common: with a key one `finishBlock` of the pipeline's result, without one `NoKey`; what
a `finishBlock` leaves and presents (spec/44_cipher_engine.md R196, R200, R205). -/

namespace Sys2Proof.Machine

/-- With a key, `ENC` ends with the forward pipeline's result (R196). -/
theorem exec_enc_of_kvalid {s : State} (hv : s.kvalid = true) :
    exec .enc s = .next (s.finishBlock (encryptBlock s.roundKey s.ksel.nr (dinBlock s.din))) := by
  simp [exec, execEnc, s.keyError_eq_none_iff.mpr hv]

/-- With a key, `DEC` ends with the inverse pipeline's result (R200). -/
theorem exec_dec_of_kvalid {s : State} (hv : s.kvalid = true) :
    exec .dec s = .next (s.finishBlock (decryptBlock s.roundKey s.ksel.nr (dinBlock s.din))) := by
  simp [exec, execDec, s.keyError_eq_none_iff.mpr hv]

theorem State.keyError_of_not_kvalid {s : State} (hv : s.kvalid = false) : s.keyError = some .noKey := by
  simp [State.keyError, hv]

theorem exec_enc_of_not_kvalid {s : State} (hv : s.kvalid = false) : exec .enc s = .next (s.raise .noKey) := by
  simp [exec, execEnc, State.keyError_of_not_kvalid hv]

theorem exec_dec_of_not_kvalid {s : State} (hv : s.kvalid = false) : exec .dec s = .next (s.raise .noKey) := by
  simp [exec, execDec, State.keyError_of_not_kvalid hv]

/-- A pipeline's end presents the bytes of the State it leaves, and touches neither the key nor the rest (R196, R197). -/
theorem State.frame_finishBlock (s : State) (m : Mat4) :
    (s.finishBlock m).Answers .ok (s.finishBlock m).S.blockByte ∧ s.SameKey (s.finishBlock m) ∧
      s.SameRest (s.finishBlock m) :=
  ⟨⟨rfl, rfl, fun _ hk => s.finishBlock_dout m hk⟩, s.sameKey_setS_respond m _, s.sameRest_setS_respond m _⟩

/-- The State of the block a pipeline's end presents is its result (R197). -/
theorem State.ofBlock_finishBlock_dout (s : State) (m : Mat4) : Mat4.ofBlock (doutByte (s.finishBlock m).rspData) = m :=
  Mat4.ext_get fun r c => (Mat4.get_ofBlock _ r c).trans ((s.setS m).respond_block_dout m r c)

/-- A command whose result is a function `f` of the round keys, `Nr` and the block, and which fails with `NoKey` without a key,
responds the same wherever the key and the block are the same (R205). -/
theorem State.SameKey.response_eq_of_blockCommand {i : Instr} {f : (Nat → Mat4) → Nat → Mat4 → Mat4}
    (hok : ∀ {s : State}, s.kvalid = true → exec i s = .next (s.finishBlock (f s.roundKey s.ksel.nr (dinBlock s.din))))
    (herr : ∀ {s : State}, s.kvalid = false → exec i s = .next (s.raise .noKey))
    {s t : State} (hkey : s.SameKey t) (hdin : ∀ k < 16, dinByte t.din k = dinByte s.din k) :
    ∃ s' t', exec i s = .next s' ∧ exec i t = .next t' ∧ t'.rspErr = s'.rspErr ∧ t'.rspData = s'.rspData := by
  obtain ⟨hW, hksel, hkvalid⟩ := hkey
  cases hv : s.kvalid with
  | false => exact ⟨_, _, herr hv, herr (hkvalid.trans hv), rfl, rfl⟩
  | true =>
    have hround : t.roundKey = s.roundKey := funext (State.roundKey_congr hW)
    refine ⟨_, _, hok hv, hok (hkvalid.trans hv), rfl, ?_⟩
    rw [State.finishBlock_rspData, State.finishBlock_rspData, hround, hksel, dinBlock_congr hdin]

end Sys2Proof.Machine

namespace Sys2Proof

open Machine

/-- Settles O44: `ENC` and `DEC` are both functions of the round keys, `Nr` and the block, behind the same check. -/
theorem blockIndependence : Obligations.BlockIndependence := by
  rintro s t i (rfl | rfl) hkey hdin
  · exact hkey.response_eq_of_blockCommand exec_enc_of_kvalid exec_enc_of_not_kvalid hdin
  · exact hkey.response_eq_of_blockCommand exec_dec_of_kvalid exec_dec_of_not_kvalid hdin

end Sys2Proof
end

section
/-! The command `ENC`: the State round by round, its result and its frame, and what it leaves in `S` for the next command
(spec/44_cipher_engine.md R196, R197). -/

namespace Sys2Proof

/-- The State after the stage of round `r` of the forward pipeline, for `r` below `Nr` (R196). -/
def encryptStage (key : Nat → Mat4) (block : Mat4) (r : Nat) : Mat4 := mainStages key r (addRoundKey (key 0) block)

/-- From round 1 on a stage is a main stage on the State after the round before (R196). -/
theorem encryptStage_of_pos (key : Nat → Mat4) (block : Mat4) {r : Nat} (h : 1 ≤ r) :
    encryptStage key block r = mainStage (key r) (encryptStage key block (r - 1)) := by
  obtain ⟨n, rfl⟩ := Nat.exists_eq_add_of_le' h
  rfl

end Sys2Proof

namespace Sys2Proof.Machine

theorem decode_enc_word : decode 0x4000 = .ok .enc := by decide

/-- The old `S` has no influence on `ENC` with a key: it is written over (R196). -/
theorem exec_enc_setS {s : State} (hv : s.kvalid = true) (m : Mat4) : exec .enc (s.setS m) = exec .enc s :=
  (exec_enc_of_kvalid (s := s.setS m) hv).trans (exec_enc_of_kvalid hv).symm

/-- After a pipeline's end, a command that applies the transform `f` leaves `f` of the block presented (R197). -/
theorem State.finishBlock_leavesS {i : Instr} {f : Mat4 → Mat4} (hi : ∀ s, exec i s = .next ((s.setS (f s.S)).respond []))
    (s : State) (m : Mat4) :
    (s.finishBlock m).LeavesS i (f (Mat4.ofBlock (doutByte (s.finishBlock m).rspData))) := by
  rw [State.ofBlock_finishBlock_dout]
  exact ⟨_, hi _, rfl, rfl⟩

/-- After a pipeline's end, `ADDROUNDKEY` of a round of the key adds the round key to the block presented (R197). -/
theorem State.finishBlock_leavesS_addroundkey {s : State} {round : Nat} (hv : s.kvalid = true) (h : round ≤ s.ksel.nr)
    (m : Mat4) :
    (s.finishBlock m).LeavesS (.addroundkey round)
      (addRoundKey (s.roundKey round) (Mat4.ofBlock (doutByte (s.finishBlock m).rspData))) := by
  rw [State.ofBlock_finishBlock_dout]
  exact ⟨_, exec_addroundkey_of_le_nr (s := s.finishBlock m) hv h, rfl, rfl⟩

end Sys2Proof.Machine

namespace Sys2Proof

open Machine

/-- Settles O22: with a key `ENC` ends with the forward pipeline's result, whose final stage follows the State after round `Nr-1`;
without one it raises. -/
theorem encResult : Obligations.EncResult := by
  refine ⟨decode_enc_word, fun s hv => ?_, fun s hv => State.failsWith_of_raise (exec_enc_of_not_kvalid hv),
    exampleKeyState, _, holdsExampleKey_exampleKeyState,
    (perform_of_decode_eq_ok decode_enc_word _ _).trans (exec_enc_of_kvalid rfl), rfl, by decide +kernel⟩
  exact ⟨encryptStage s.roundKey (dinBlock s.din), _, exec_enc_of_kvalid hv, rfl, fun _ h _ => encryptStage_of_pos _ _ h, rfl,
    s.frame_finishBlock _⟩

/-- Settles O40: the block `ENC` presents is the State it leaves, so each transform of that State is one of the block; and the old
`S` has no influence on either. -/
theorem encLeavesResultInState : Obligations.EncLeavesResultInState := by
  intro s m hv
  have henc := exec_enc_of_kvalid hv
  exact ⟨_, _, _, henc, fun r c => (State.respond_block_dout _ _ r c).symm, exec_rdstate _, rfl, rfl, rfl,
    s.finishBlock_leavesS exec_subbytes _, s.finishBlock_leavesS exec_invsubbytes _,
    s.finishBlock_leavesS exec_shiftrows _, s.finishBlock_leavesS exec_invshiftrows _,
    s.finishBlock_leavesS exec_mixcolumns _, s.finishBlock_leavesS exec_invmixcolumns _,
    fun _ hr => State.finishBlock_leavesS_addroundkey hv hr _, (exec_enc_setS hv m).trans henc, rfl⟩

end Sys2Proof
end

section
/-! The command `DEC`: the State round by round, from round `Nr` down, its result and its frame (spec/44_cipher_engine.md
R200). -/

namespace Sys2Proof

theorem KeySize.nr_pos (k : KeySize) : 0 < k.nr := by cases k <;> decide

/-- The State of the inverse pipeline after the reversed final stage and `j` reversed main stages, those of rounds `nr - 1` down to
`nr - j` (R200). -/
def invStagesDone (key : Nat → Mat4) (nr : Nat) (block : Mat4) : Nat → Mat4
  | 0 => invFinalStage (key nr) block
  | j + 1 => invMainStage (key (nr - (j + 1))) (invStagesDone key nr block j)

/-- The State after the reversed stage of round `r`, for `r` from `nr` down to 1 (R200). -/
def decryptStage (key : Nat → Mat4) (nr : Nat) (block : Mat4) (r : Nat) : Mat4 := invStagesDone key nr block (nr - r)

/-- The round numbered `nr` is the reversed final stage (R200). -/
theorem decryptStage_nr (key : Nat → Mat4) (nr : Nat) (block : Mat4) :
    decryptStage key nr block nr = invFinalStage (key nr) block := by
  rw [decryptStage, Nat.sub_self, invStagesDone]

/-- Below `nr` a reversed stage is a reversed main stage on the State after the round above (R200). -/
theorem decryptStage_of_lt (key : Nat → Mat4) {nr r : Nat} (block : Mat4) (h : r < nr) :
    decryptStage key nr block r = invMainStage (key r) (decryptStage key nr block (r + 1)) := by
  have hj : nr - r = nr - (r + 1) + 1 := by omega
  have hr : nr - (nr - (r + 1) + 1) = r := by omega
  rw [decryptStage, hj, invStagesDone, hr, decryptStage]

/-- After the reversed stage of any round `n + 1`, the rounds `n` down to 1 remain of the inverse pipeline (R200). -/
theorem decryptBlock_eq_of_lt (key : Nat → Mat4) {nr n : Nat} (block : Mat4) (h : n < nr) :
    decryptBlock key nr block = addRoundKey (key 0) (invMainStages key n (decryptStage key nr block (n + 1))) := by
  obtain ⟨j, rfl⟩ := Nat.exists_eq_add_of_lt h
  induction j generalizing n with
  | zero => rw [Nat.add_zero, decryptStage_nr]; rfl
  | succ j ih =>
    have hn : n + (j + 1) + 1 = n + 1 + j + 1 := by omega
    rw [hn, ih (by omega), invMainStages, ← decryptStage_of_lt key block (by omega)]

end Sys2Proof

namespace Sys2Proof.Machine

theorem decode_dec_word : decode 0x4100 = .ok .dec := by decide

end Sys2Proof.Machine

namespace Sys2Proof

open Machine

/-- Settles O23: with a key `DEC` ends with the inverse pipeline's result, which adds round key 0 to the State after round 1;
without one it raises. -/
theorem decResult : Obligations.DecResult := by
  refine ⟨decode_dec_word, fun s hv => ?_, fun s hv => State.failsWith_of_raise (exec_dec_of_not_kvalid hv),
    exampleKeyState, _, holdsExampleKey_exampleKeyState,
    (perform_of_decode_eq_ok decode_dec_word _ _).trans (exec_dec_of_kvalid rfl), rfl, by decide +kernel⟩
  exact ⟨decryptStage s.roundKey s.ksel.nr (dinBlock s.din), _, exec_dec_of_kvalid hv, decryptStage_nr _ _ _,
    fun _ _ h => decryptStage_of_lt _ _ h, decryptBlock_eq_of_lt _ _ s.ksel.nr_pos, s.frame_finishBlock _⟩

end Sys2Proof
end

section
/-! Every command is answered, and an error leaves no mark on the state (spec/60_exceptions.md R240, R245, R249). -/

namespace Sys2Proof.Machine

/-- `t` answers a command run from `s`: one response with a code of the core's own; with an error also zero data and the
architectural state of `s`; and nothing else touched (R17, R240, R249). -/
def State.AnsweredBy (s t : State) : Prop :=
  t.rspValid = true ∧ t.rspErr ≠ .malformedCiphertext ∧ (t.rspErr ≠ .ok → s.SameArch t ∧ t.rspData = 0) ∧ s.SameRest t

theorem State.answeredBy_raise (s : State) {e : ErrCode} (h : e ≠ .malformedCiphertext) : s.AnsweredBy (s.raise e) :=
  ⟨rfl, h, fun _ => ⟨⟨rfl, rfl, rfl, rfl⟩, rfl⟩, rfl, rfl, rfl, rfl, rfl, rfl, rfl⟩

/-- A success may write the architectural state, so only the rest has to stay (R17). -/
theorem State.answeredBy_respond {s u : State} {b : List Byte} (h : s.SameRest (u.respond b)) : s.AnsweredBy (u.respond b) :=
  ⟨rfl, by simp, fun hne => absurd (u.respond_rspErr b) hne, h⟩

/-- Every command is answered, from every state (R240, R258). -/
theorem exec_answered (i : Instr) (s : State) : ∃ t, exec i s = .next t ∧ s.AnsweredBy t := by
  rcases exec_cases i s with ⟨e, -, he, h⟩ | ⟨m, b, h⟩ | ⟨b, h⟩ | ⟨ksel, klen, k, -, -, h⟩
  · exact ⟨_, h, s.answeredBy_raise he⟩
  · exact ⟨_, h, State.answeredBy_respond (s.sameRest_setS_respond m b)⟩
  · exact ⟨_, h, State.answeredBy_respond (s.sameRest_respond b)⟩
  · exact ⟨_, h, State.answeredBy_respond (s.sameRest_keyExpanded k)⟩

/-- Every word at the port is answered: a legal one by its command, an illegal one by `IllegalCommand` (R89, R245). -/
theorem perform_answered (w : BitVec 16) (d : BitVec 256) (s : State) :
    ∃ t, perform w d s = .next t ∧ (s.sample (Pins.command w d)).AnsweredBy t := by
  rcases perform_cases w d s with ⟨i, -, h⟩ | ⟨e, -, h⟩
  · rw [h]
    exact exec_answered i _
  · exact ⟨_, h, State.answeredBy_raise _ (by decide)⟩

end Sys2Proof.Machine

namespace Sys2Proof

open Machine

/-- Settles O7: the command is answered from the sampled state, which differs from the state before in the sampled word and data
only. -/
theorem everyCommandIsAnswered : Obligations.EveryCommandIsAnswered := by
  intro w d s
  obtain ⟨t, ht, hvalid, hcode, herror, hphase, hrnd, hki, -, -, hpins, hdelivered⟩ := perform_answered w d s
  exact ⟨t, ht, hvalid, hcode, herror, hphase, hrnd, hki, hpins, hdelivered⟩

end Sys2Proof
end

section
/-! Which error a command reports, its checks taken in order (spec/60_exceptions.md R242, R243, R248). -/

namespace Sys2Proof

theorem KeySize.code_ne_three (k : KeySize) : k.code ≠ 0b11 := by cases k <;> decide

/-- `Nk` read off the code of the size (R27). -/
theorem KeySize.ite_code_eq_nk (k : KeySize) : (if k.code = 0b00 then 4 else if k.code = 0b01 then 6 else 8) = k.nk := by
  cases k <;> rfl

end Sys2Proof

namespace Sys2Proof.Machine

/-- `KEYEXP`: `InvalidKeySize`, then `InvalidKeyMaterial` (R248 (2)). -/
theorem exec_keyexp_rspErr (ksel : BitVec 2) (klen : Nat) (s : State) :
    ∃ t, exec (.keyexp ksel klen) s = .next t ∧
      t.rspErr =
        if ksel = 0b11 then .invalidKeySize
        else if klen ≠ 4 * (if ksel = 0b00 then 4 else if ksel = 0b01 then 6 else 8) then .invalidKeyMaterial
        else .ok := by
  rcases keyexpCheck_cases ksel klen with ⟨rfl, h⟩ | ⟨k, rfl, hl, h⟩ | ⟨k, rfl, hl, h⟩
  · exact ⟨_, exec_keyexp_of_error h s, rfl⟩
  · exact ⟨_, exec_keyexp_of_error h s, by rw [if_neg k.code_ne_three, k.ite_code_eq_nk, if_pos hl, State.raise_rspErr]⟩
  · refine ⟨_, exec_keyexp_of_ok h s, ?_⟩
    rw [if_neg k.code_ne_three, k.ite_code_eq_nk, if_neg (not_not_intro hl)]
    rfl

/-- `RDRK` and `ADDROUNDKEY` raise the error of the same check (R248 (3)). -/
theorem exec_roundCommand_of_roundError {i : Instr} {s : State} {round : Nat} {e : ErrCode}
    (hi : i = .rdrk round ∨ i = .addroundkey round) (he : s.roundError round = some e) : exec i s = .next (s.raise e) := by
  rcases hi with rfl | rfl
  · exact exec_rdrk_of_roundError he
  · exact exec_addroundkey_of_roundError he

/-- `RDRK` and `ADDROUNDKEY`: `NoKey`, then `RoundOutOfRange` (R248 (3)). -/
theorem exec_roundCommand_rspErr {i : Instr} {round : Nat} (s : State) (hi : i = .rdrk round ∨ i = .addroundkey round) :
    ∃ t, exec i s = .next t ∧
      t.rspErr = if s.kvalid = false then .noKey else if round > s.ksel.nr then .roundOutOfRange else .ok := by
  rcases s.roundError_cases round with ⟨hv, he⟩ | ⟨hv, hr, he⟩ | ⟨hv, hr, -⟩
  · exact ⟨_, exec_roundCommand_of_roundError hi he, by simp [hv]⟩
  · exact ⟨_, exec_roundCommand_of_roundError hi he, by simp [hv, hr]⟩
  · rcases hi with rfl | rfl
    · exact ⟨_, exec_rdrk_of_le_nr hv hr, by simp [hv, hr]⟩
    · exact ⟨_, exec_addroundkey_of_le_nr hv hr, by simp [hv, hr]⟩

/-- `ENC` and `DEC`: `NoKey` (R248 (4)). -/
theorem exec_blockCommand_rspErr {i : Instr} (s : State) (hi : i = .enc ∨ i = .dec) :
    ∃ t, exec i s = .next t ∧ t.rspErr = if s.kvalid = false then .noKey else .ok := by
  cases hv : s.kvalid with
  | false =>
    rcases hi with rfl | rfl
    · exact ⟨_, exec_enc_of_not_kvalid hv, rfl⟩
    · exact ⟨_, exec_dec_of_not_kvalid hv, rfl⟩
  | true =>
    rcases hi with rfl | rfl
    · exact ⟨_, exec_enc_of_kvalid hv, rfl⟩
    · exact ⟨_, exec_dec_of_kvalid hv, rfl⟩

/-- The nine commands that need no key write at most the State and respond, whatever the state (R284). -/
theorem exec_of_mem_keylessCommands {i : Instr} (hi : i ∈ keylessCommands) (s : State) :
    ∃ m b, exec i s = .next ((s.setS m).respond b) := by
  simp only [keylessCommands, List.mem_cons, List.not_mem_nil, or_false] at hi
  rcases hi with rfl | rfl | rfl | rfl | rfl | rfl | rfl | rfl | rfl
  · exact ⟨s.S, _, exec_gfmul s⟩
  · exact ⟨_, _, exec_ldstate s⟩
  · exact ⟨s.S, _, exec_rdstate s⟩
  · exact ⟨_, _, exec_subbytes s⟩
  · exact ⟨_, _, exec_invsubbytes s⟩
  · exact ⟨_, _, exec_shiftrows s⟩
  · exact ⟨_, _, exec_invshiftrows s⟩
  · exact ⟨_, _, exec_mixcolumns s⟩
  · exact ⟨_, _, exec_invmixcolumns s⟩

end Sys2Proof.Machine

namespace Sys2Proof

open Machine

/-- Settles O13: an illegal word is found at decoding, and each command reports the first of its checks that fails. -/
theorem errorPriority : Obligations.ErrorPriority := by
  refine ⟨fun w d s e h => ?illegal, exec_keyexp_rspErr, fun _ s _ hi => exec_roundCommand_rspErr s hi,
    fun s _ hi => exec_blockCommand_rspErr s hi, fun s i hi => ?keyless⟩
  case illegal =>
    obtain ⟨t, ht, ⟨-, herr, -⟩, -⟩ := perform_of_decode_eq_error h d s
    exact ⟨t, ht, herr⟩
  case keyless =>
    obtain ⟨m, b, h⟩ := exec_of_mem_keylessCommands hi s
    exact ⟨_, h, State.respond_rspErr _ _⟩

end Sys2Proof
end

section
/-! Encoding and decoding agree (spec/30_encoding.md R80, R81, R86, R89): the operand fields of an argument, the words of each
format, and the rows of the opcode map. -/

namespace Sys2Proof

/-! ## The fields of an argument -/

/-- The argument of a format K word is its two fields (R81). -/
theorem kselField_append_klenField (arg : BitVec 8) : kselField arg ++ BitVec.ofNat 6 (klenField arg) = arg := by
  simp only [kselField, klenField, BitVec.ofNat_toNat, BitVec.setWidth_eq]
  exact (BitVec.extractLsb'_append_extractLsb'_eq_extractLsb' rfl).trans BitVec.extractLsb'_eq_self

/-- The argument of a format R word whose high nibble is zero is its round number (R81). -/
theorem zero_append_roundField {arg : BitVec 8} (h : zeroField arg = 0) :
    (0 : BitVec 4) ++ BitVec.ofNat 4 (roundField arg) = arg := by
  rw [← h]
  simp only [zeroField, roundField, BitVec.ofNat_toNat, BitVec.setWidth_eq]
  exact (BitVec.extractLsb'_append_extractLsb'_eq_extractLsb' rfl).trans BitVec.extractLsb'_eq_self

@[simp] theorem kselField_append (ksel : BitVec 2) (n : BitVec 6) : kselField (ksel ++ n : BitVec 8) = ksel :=
  BitVec.extractLsb'_append_eq_left

@[simp] theorem klenField_append (ksel : BitVec 2) (n : BitVec 6) : klenField (ksel ++ n : BitVec 8) = n.toNat :=
  congrArg BitVec.toNat BitVec.extractLsb'_append_eq_right

@[simp] theorem zeroField_append (z n : BitVec 4) : zeroField (z ++ n : BitVec 8) = z :=
  BitVec.extractLsb'_append_eq_left

@[simp] theorem roundField_append (z n : BitVec 4) : roundField (z ++ n : BitVec 8) = n.toNat :=
  congrArg BitVec.toNat BitVec.extractLsb'_append_eq_right

/-- Words are equal exactly when their fields are (R80). -/
theorem word_append_inj {a b c d : BitVec 8} : (a ++ b : BitVec 16) = c ++ d ↔ a = c ∧ b = d := by
  refine ⟨fun h => ⟨?_, ?_⟩, fun ⟨ha, hb⟩ => ha ▸ hb ▸ rfl⟩
  · simpa using congrArg opcodeField h
  · simpa using congrArg argField h

/-! ## Decoding an encoding, and encoding a decoded word -/

/-- A format R word of a round number in range decodes to its command (R81, R83). -/
theorem decodeFormatR_of_lt (command : Nat → Instr) {round : Nat} (h : round < 16) :
    decodeFormatR ((0 : BitVec 4) ++ BitVec.ofNat 4 round) command = .ok (command round) := by
  rw [decodeFormatR, zeroField_append, roundField_append, if_pos rfl, BitVec.toNat_ofNat, Nat.mod_eq_of_lt h]

/-- Settles O9: format by format; the operand fields hold every value the operands may take. -/
theorem decodeEncodeAgree : Obligations.DecodeEncodeAgree := by
  intro i hi
  cases i with
  | keyexp ksel klen =>
    have hlen : klen < 64 := of_decide_eq_true hi
    refine (decode_keyexp_append _).trans ?_
    rw [Instr.arg, kselField_append, klenField_append, BitVec.toNat_ofNat, Nat.mod_eq_of_lt hlen]
  | rdrk round =>
    have hround : round < 16 := of_decide_eq_true hi
    simpa [encode, Instr.opcode, Instr.arg, decode] using decodeFormatR_of_lt .rdrk hround
  | addroundkey round =>
    have hround : round < 16 := of_decide_eq_true hi
    simpa [encode, Instr.opcode, Instr.arg, decode] using decodeFormatR_of_lt .addroundkey hround
  | subbytes | invsubbytes | shiftrows | invshiftrows | mixcolumns | invmixcolumns | gfmul | ldstate | rdstate | enc | dec =>
    decide

/-- Each entry of the table of format Z names its command's own opcode, and the command has no operand (R86). -/
theorem formatZTable_entry : ∀ e ∈ formatZTable, e.2.wellFormed = true ∧ e.2.opcode = e.1 ∧ e.2.arg = 0 := by decide

/-- A command found in the table of format Z (R86). -/
theorem formatZ_of_lookup {opcode : BitVec 8} {i : Instr} (h : formatZTable.lookup opcode = some i) :
    i.wellFormed = true ∧ i.opcode = opcode ∧ i.arg = 0 := by
  obtain ⟨before, after, htable, -⟩ := List.lookup_eq_some_iff.mp h
  exact formatZTable_entry (opcode, i) (by simp [htable])

/-- What a word decodes to is well formed and has the word's own opcode and argument (R89). -/
theorem fields_of_decode_eq_ok {w : BitVec 16} {i : Instr} (h : decode w = .ok i) :
    i.wellFormed = true ∧ i.opcode = opcodeField w ∧ i.arg = argField w := by
  rcases decode_eq_ok_cases h with ⟨hop, rfl⟩ | ⟨hop, hz, rfl⟩ | ⟨hop, hz, rfl⟩ | ⟨htable, harg⟩
  · exact ⟨decide_eq_true (klenField_lt _), hop.symm, kselField_append_klenField _⟩
  · exact ⟨decide_eq_true (roundField_lt _), hop.symm, zero_append_roundField hz⟩
  · exact ⟨decide_eq_true (roundField_lt _), hop.symm, zero_append_roundField hz⟩
  · rw [harg]
    exact formatZ_of_lookup htable

/-- Settles O10: the decoded command has the word's own fields, and a word is its fields. -/
theorem decodedWordsAreEncodings : Obligations.DecodedWordsAreEncodings := by
  intro w i h
  obtain ⟨hwf, hop, harg⟩ := fields_of_decode_eq_ok h
  exact ⟨hwf, by rw [encode, hop, harg, word_eq_fields]⟩

/-! ## Match and mask -/

/-- The low byte of the mask of a format's rows (R86). -/
def WordFormat.argMask (format : WordFormat) : BitVec 8 :=
  match format with
  | .k => 0x00
  | .r => 0xF0
  | .z => 0xFF

/-- The bits of the argument under the mask are zero exactly when the argument is legal (R81, R87). -/
theorem WordFormat.and_argMask_eq_zero_iff (format : WordFormat) (arg : BitVec 8) :
    arg &&& format.argMask = 0 ↔ legalArg (some format) arg = true := by
  revert arg
  cases format <;> decide +kernel

/-- A command's row mask keeps the whole opcode, and of the argument what its format fixes (R86). -/
theorem Instr.rowMask_eq (i : Instr) :
    ∃ format, opcodeFormat i.opcode = some format ∧ i.rowMask = (0xFF : BitVec 8) ++ format.argMask := by
  cases i with
  | keyexp ksel klen => exact ⟨.k, rfl, rfl⟩
  | rdrk round | addroundkey round => exact ⟨.r, rfl, rfl⟩
  | subbytes | invsubbytes | shiftrows | invshiftrows | mixcolumns | invmixcolumns | gfmul | ldstate | rdstate | enc | dec =>
    exact ⟨.z, rfl, rfl⟩

/-- A word is in a command's row exactly when it has the row's opcode and an argument legal after it (R86, R87). -/
theorem and_rowMask_eq_rowMatch_iff (w : BitVec 16) (i : Instr) :
    w &&& i.rowMask = i.rowMatch ↔ opcodeField w = i.opcode ∧ legalArg (opcodeFormat i.opcode) (argField w) = true := by
  obtain ⟨format, hformat, hmask⟩ := i.rowMask_eq
  have hones : opcodeField w &&& 0xFF = opcodeField w := BitVec.and_allOnes
  rw [hformat, hmask, Instr.rowMatch, ← format.and_argMask_eq_zero_iff, ← word_append_inj]
  nth_rw 1 [← word_eq_fields w]
  rw [BitVec.and_append, hones]

/-- A word decodes to a command of an opcode exactly when it has that opcode and an argument legal after it (R87, R89). -/
theorem exists_decode_eq_ok_opcode_iff (w : BitVec 16) (opcode : BitVec 8) :
    (∃ j, decode w = .ok j ∧ j.opcode = opcode) ↔
      opcodeField w = opcode ∧ legalArg (opcodeFormat opcode) (argField w) = true := by
  constructor
  · rintro ⟨j, hj, rfl⟩
    have hop := (fields_of_decode_eq_ok hj).2.1
    refine ⟨hop.symm, ?_⟩
    rw [hop, ← decode_isSome, hj]
    rfl
  · rintro ⟨rfl, hlegal⟩
    rw [← decode_isSome] at hlegal
    cases hw : decode w with
    | error e => simp [hw, Except.toOption] at hlegal
    | ok j => exact ⟨j, rfl, (fields_of_decode_eq_ok hw).2.1⟩

/-- Settles O11: both sides say that the word has the row's opcode and an argument legal after it. -/
theorem decodeFollowsMatchAndMask : Obligations.DecodeFollowsMatchAndMask := fun w i =>
  (and_rowMask_eq_rowMatch_iff w i).trans (exists_decode_eq_ok_opcode_iff w i.opcode).symm

/-- Settles O8: nine closed words. -/
theorem specWordsDecode : Obligations.SpecWordsDecode := by
  unfold Obligations.SpecWordsDecode
  decide

end Sys2Proof
end

section
/-! The port, event by event (spec/10_state.md R36; spec/70_reset_and_hazards.md R280, R295): what a step is when the host's
coming row of pins is known. -/

namespace Sys2Proof.Machine

theorem State.pins_of_host {s : State} {p : Pins} {rest : List Pins} (h : s.host = p :: rest) : s.pins = p := by
  simp [State.pins, h]

theorem State.nextInput_of_host {s : State} {p : Pins} {rest : List Pins} (h : s.host = p :: rest) :
    s.nextInput = s.withHost rest := by
  simp [State.nextInput, State.withHost, h]

theorem State.SequencerIdle.inFlight {s : State} (h : s.SequencerIdle) : s.inFlight = false :=
  s.inFlight_eq_false_iff.mpr ⟨h.1, h.2.2⟩

/-- A row with `rst = 1` resets the core, whatever it was doing (R280). -/
theorem step_of_rst {s : State} (h : s.pins.rst = true) : step s = .next s.nextInput.applyReset := by
  simp [step, State.portEvent, h]

/-- A command under way goes on (R32). -/
theorem step_of_inFlight {s : State} (hrst : s.pins.rst = false) (h : s.inFlight = true) :
    step s = .next s.nextInput.advance := by
  have hf : s.nextInput.inFlight = true := h
  simp [step, State.portEvent, hrst, hf]

section

variable {s : State} {p : Pins} {rest : List Pins} (hhost : s.host = p :: rest) (hrst : p.rst = false)

include hhost hrst

/-- A command presented to the ready core is performed (R36). -/
theorem step_of_accept (hready : s.cmdReady = true) (hcmd : p.cmdValid = true) :
    step s = perform p.cmdWord p.cmdData (s.withHost rest) := by
  obtain ⟨hvalid, hidle⟩ := s.cmdReady_iff.mp hready
  have hf : (s.withHost rest).inFlight = false := hidle
  simp [step, State.portEvent, State.pins_of_host hhost, State.nextInput_of_host hhost, hrst, hcmd, hvalid, hf]

/-- A response taken is delivered (R36). -/
theorem step_of_deliver (hidle : s.inFlight = false) (hvalid : s.rspValid = true) (htake : p.rspReady = true) :
    step s = .next (s.withHost rest).deliver := by
  have hf : (s.withHost rest).inFlight = false := hidle
  simp [step, State.portEvent, State.pins_of_host hhost, State.nextInput_of_host hhost, hrst, htake, hvalid, hf]

/-- A response not taken is held, and the idle core with nothing presented waits (R36, R257). -/
theorem step_of_wait (hidle : s.inFlight = false)
    (hwait : s.rspValid = true ∧ p.rspReady = false ∨ s.rspValid = false ∧ p.cmdValid = false) :
    step s = .next (s.withHost rest) := by
  have hf : (s.withHost rest).inFlight = false := hidle
  rcases hwait with ⟨hvalid, hpin⟩ | ⟨hvalid, hpin⟩ <;>
    simp [step, State.portEvent, State.pins_of_host hhost, State.nextInput_of_host hhost, hrst, hvalid, hpin, hf]

end

/-- The reset values of R38. -/
theorem State.hasResetValues_reset : State.reset.HasResetValues :=
  ⟨Mat4.get_zero, fun i hi => by simp [State.word, hi], rfl, rfl, rfl, rfl, rfl, rfl, rfl, rfl, rfl, rfl, rfl, rfl⟩

end Sys2Proof.Machine

namespace Sys2Proof

open Machine

/-- Settles O1: the ready core performs the word, and a word that decodes runs its command on the sampled state. -/
theorem stepRunsDecodedInstruction : Obligations.StepRunsDecodedInstruction := by
  intro s p rest i hhost hrst hcmd hready hdecode
  refine ⟨(decodedWordsAreEncodings _ _ hdecode).1, ?_⟩
  rw [step_of_accept hhost hrst hready hcmd, perform_of_decode_eq_ok hdecode]
  rfl

/-- Settles O2: the ready core performs the word, and an illegal one is answered with `IllegalCommand`. -/
theorem illegalWordIsAnswered : Obligations.IllegalWordIsAnswered := by
  intro s p rest e hhost hrst hcmd hready hdecode
  obtain ⟨t, ht, hans, harch⟩ := perform_of_decode_eq_error hdecode p.cmdData (s.withHost rest)
  exact ⟨t, (step_of_accept hhost hrst hready hcmd).trans ht, hans, congrArg ErrCode.code hans.2.1, harch⟩

/-- Settles O3: a row with `rst = 1` leaves the reset state but for the host's side, which R38 does not list. -/
theorem resetGivesTheResetState : Obligations.ResetGivesTheResetState :=
  ⟨State.hasResetValues_reset, fun _ h => ⟨_, step_of_rst h, State.hasResetValues_reset, rfl⟩⟩

/-- Settles O6: every event at the port gives a next state, an accepted command because it is answered. -/
theorem stepIsTotal : Obligations.StepIsTotal := by
  intro s
  rcases step_cases s with ⟨-, h⟩ | ⟨-, -, h⟩ | ⟨-, -, -, -, h⟩ | ⟨-, -, -, -, h⟩ | ⟨-, -, -, -, h⟩ | ⟨-, -, -, -, h⟩
  case inr.inr.inr.inr.inl =>
    obtain ⟨t, ht, -⟩ := perform_answered s.pins.cmdWord s.pins.cmdData s.nextInput
    exact ⟨t, h.trans ht⟩
  all_goals exact ⟨_, h⟩

/-- Settles O48: each clause is one event of the port; an accepted command's answer leaves the host's side as it was. -/
theorem portHandshake : Obligations.PortHandshake := by
  intro s p rest hhost hrst hidle
  refine ⟨fun hvalid htake => ?hold, fun hvalid htake => ?deliver, fun hvalid hcmd => ?wait, fun hvalid hcmd => ?accept⟩
  case hold => exact step_of_wait hhost hrst hidle.inFlight (.inl ⟨hvalid, htake⟩)
  case wait => exact step_of_wait hhost hrst hidle.inFlight (.inr ⟨hvalid, hcmd⟩)
  case deliver =>
    exact ⟨_, step_of_deliver hhost hrst hidle.inFlight hvalid htake, rfl,
      (State.cmdReady_iff _).mpr ⟨rfl, hidle.inFlight⟩, rfl, rfl, rfl, rfl, rfl⟩
  case accept =>
    have hready : s.cmdReady = true := s.cmdReady_iff.mpr ⟨hvalid, hidle.inFlight⟩
    obtain ⟨t, ht, htvalid, -, -, -, -, -, hword, hdin, hrows, hdelivered⟩ :=
      perform_answered p.cmdWord p.cmdData (s.withHost rest)
    exact ⟨t, (step_of_accept hhost hrst hready hcmd).trans ht, hrows, htvalid,
      by simp [State.cmdReady, State.busy, htvalid], hdelivered, hword, hdin⟩

end Sys2Proof
end

section
/-! The invariant of the core (spec/10_state.md R30, R32; spec/60_exceptions.md R240, R241, R246): reset has it and every step
keeps it. -/

namespace Sys2Proof.Machine

theorem Response.lawful_of_ok {r : Response} (h : r.err = .ok) : r.Lawful := by
  simp [Response.Lawful, h]

/-- The part of the invariant that does not speak of the response presented, so that it holds in the midst of a command too. -/
def State.CoreInv (s : State) : Prop := s.SequencerIdle ∧ s.KeyInvariant ∧ ∀ r ∈ s.delivered, r.Lawful

theorem State.Inv.coreInv {s : State} (h : s.Inv) : s.CoreInv := by
  obtain ⟨hidle, hkey, -, hdelivered, -⟩ := h
  exact ⟨hidle, hkey, hdelivered⟩

/-- With a lawful response presented the rest of the invariant follows (R246 speaks of the time after it). -/
theorem State.CoreInv.inv_of_lawful {s : State} (h : s.CoreInv) (hvalid : s.rspValid = true) (hlawful : s.response.Lawful) :
    s.Inv := by
  obtain ⟨hidle, hkey, hdelivered⟩ := h
  exact ⟨hidle, hkey, fun _ => hlawful, hdelivered, fun hno => by simp [hvalid] at hno⟩

theorem State.CoreInv.raise_inv {s : State} (h : s.CoreInv) {e : ErrCode} (he : e ≠ .malformedCiphertext) : (s.raise e).Inv :=
  State.CoreInv.inv_of_lawful (s := s.raise e) h rfl ⟨fun _ => rfl, he⟩

theorem State.CoreInv.respond_inv {s : State} (h : s.CoreInv) (b : List Byte) : (s.respond b).Inv :=
  State.CoreInv.inv_of_lawful (s := s.respond b) h rfl (Response.lawful_of_ok rfl)

/-- A key just loaded is an ExpandedKey of the size recorded (R30 (b)). -/
theorem State.CoreInv.loadKey {s : State} (h : s.CoreInv) (k : KeySize) (key : Nat → Word) :
    (s.loadKey k (keyMemory k key)).CoreInv := by
  obtain ⟨hidle, -, hdelivered⟩ := h
  exact ⟨hidle, ⟨fun _ => ⟨key, rfl⟩, fun hv => by simp at hv⟩, hdelivered⟩

/-- Every command ends in a state with the invariant (R30, R240). -/
theorem State.CoreInv.exec_inv {s t : State} (h : s.CoreInv) {i : Instr} (ht : exec i s = .next t) : t.Inv := by
  rcases exec_cases i s with ⟨e, -, he, hx⟩ | ⟨m, b, hx⟩ | ⟨b, hx⟩ | ⟨ksel, klen, k, -, -, hx⟩ <;>
    obtain rfl := Host.Outcome.next.inj (hx.symm.trans ht)
  · exact h.raise_inv he
  · exact State.CoreInv.respond_inv (s := s.setS m) h b
  · exact h.respond_inv b
  · exact (h.loadKey k _).respond_inv []

/-- So does every word at the port; the word and the data sampled are no part of `CoreInv` (R245). -/
theorem State.CoreInv.perform_inv {s t : State} (h : s.CoreInv) {w : BitVec 16} {d : BitVec 256}
    (ht : perform w d s = .next t) : t.Inv := by
  have hsample : (s.sample (Pins.command w d)).CoreInv := h
  rcases perform_cases w d s with ⟨i, -, hx⟩ | ⟨e, -, hx⟩
  · exact hsample.exec_inv (hx.symm.trans ht)
  · obtain rfl := Host.Outcome.next.inj (hx.symm.trans ht)
    exact hsample.raise_inv (by decide)

/-- The delivered response joins the lawful ones, and no trace of it stays (R246). -/
theorem State.Inv.deliver {s : State} (h : s.Inv) (hvalid : s.rspValid = true) : s.deliver.Inv := by
  obtain ⟨hidle, hkey, hlawful, hdelivered, -⟩ := h
  refine ⟨hidle, hkey, fun hv => by simp at hv, ?_, fun _ => ⟨rfl, rfl⟩⟩
  exact List.forall_mem_append.mpr ⟨hdelivered, List.forall_mem_singleton.mpr (hlawful hvalid)⟩

/-- The reset state has the invariant, with any lawful responses delivered before (R38). -/
theorem State.applyReset_inv {s : State} (h : ∀ r ∈ s.delivered, r.Lawful) : s.applyReset.Inv :=
  ⟨⟨rfl, rfl, rfl⟩, ⟨fun hv => by simp at hv, fun _ => ⟨rfl, rfl⟩⟩, fun hv => by simp at hv, h, fun _ => ⟨rfl, rfl⟩⟩

/-- No part of the invariant speaks of the host's coming rows. -/
theorem State.Inv.nextInput {s : State} (h : s.Inv) : s.nextInput.Inv := h

end Sys2Proof.Machine

namespace Sys2Proof

open Machine

/-- Settles O4: the reset state is itself a reset of the reset state, with no response delivered. -/
theorem resetMeetsInvariant : Obligations.ResetMeetsInvariant :=
  State.applyReset_inv (s := State.reset) (by simp)

/-- Settles O5: event by event; the sequencer is idle, so no step is one of its stages. -/
theorem stepKeepsInvariant : Obligations.StepKeepsInvariant := by
  intro s t h ht
  obtain ⟨hidle, -, hdelivered⟩ := h.coreInv
  rcases step_cases s with ⟨-, hx⟩ | ⟨-, hbusy, -⟩ | ⟨-, -, hvalid, -, hx⟩ | ⟨-, -, -, -, hx⟩ | ⟨-, -, -, -, hx⟩ |
    ⟨-, -, -, -, hx⟩
  case inr.inl => simp [hidle.inFlight] at hbusy
  case inr.inr.inr.inr.inl => exact h.nextInput.coreInv.perform_inv (hx.symm.trans ht)
  all_goals obtain rfl := Host.Outcome.next.inj (hx.symm.trans ht)
  · exact State.applyReset_inv hdelivered
  · exact h.nextInput.deliver hvalid
  · exact h.nextInput
  · exact h.nextInput

end Sys2Proof
end

section
/-! What may write the key and the State (spec/10_state.md R23, R26, R28; spec/70_reset_and_hazards.md R292). -/

namespace Sys2Proof.Machine

/-- Only a `KEYEXP` that passes its checks changes the key (R26, R28). -/
theorem exec_sameKey_or_keyexp {i : Instr} {s t : State} (ht : exec i s = .next t) :
    s.SameKey t ∨ ∃ k : KeySize, i = .keyexp k.code (4 * k.nk) ∧ t = s.keyExpanded k := by
  rcases exec_cases i s with ⟨e, -, -, hx⟩ | ⟨m, b, hx⟩ | ⟨b, hx⟩ | ⟨ksel, klen, k, rfl, hcheck, hx⟩ <;>
    obtain rfl := Host.Outcome.next.inj (hx.symm.trans ht)
  · exact .inl ⟨rfl, rfl, rfl⟩
  · exact .inl (s.sameKey_setS_respond m b)
  · exact .inl ⟨rfl, rfl, rfl⟩
  · obtain ⟨rfl, rfl⟩ := keyexpCheck_eq_ok_iff.mp hcheck
    exact .inr ⟨k, rfl, rfl⟩

/-- The same at the port: the word is then that `KEYEXP`'s, and its response is a success (R245, R249). -/
theorem perform_sameKey_or_keyexp {w : BitVec 16} {d : BitVec 256} {s t : State} (ht : perform w d s = .next t) :
    s.SameKey t ∨
      ∃ k : KeySize, decode w = .ok (.keyexp k.code (4 * k.nk)) ∧ t.ksel = k ∧ t.kvalid = true ∧ t.rspErr = .ok := by
  rcases perform_cases w d s with ⟨i, hi, hx⟩ | ⟨e, -, hx⟩
  · rcases exec_sameKey_or_keyexp (hx.symm.trans ht) with hsame | ⟨k, rfl, rfl⟩
    · exact .inl hsame
    · exact .inr ⟨k, hi, rfl, rfl, rfl⟩
  · obtain rfl := Host.Outcome.next.inj (hx.symm.trans ht)
    exact .inl ⟨rfl, rfl, rfl⟩

/-- A command that fails writes nothing of the State (R249). -/
theorem exec_rspErr_eq_ok_of_S_ne {i : Instr} {s t : State} (ht : exec i s = .next t) (hS : t.S ≠ s.S) : t.rspErr = .ok := by
  obtain ⟨u, hu, -, -, herror, -⟩ := exec_answered i s
  obtain rfl := Host.Outcome.next.inj (hu.symm.trans ht)
  by_contra hne
  exact hS (herror hne).1.1

theorem exec_keyexp_S {ksel : BitVec 2} {klen : Nat} {s t : State} (ht : exec (.keyexp ksel klen) s = .next t) : t.S = s.S := by
  cases hcheck : keyexpCheck ksel klen with
  | error e =>
    obtain rfl := Host.Outcome.next.inj ((exec_keyexp_of_error hcheck s).symm.trans ht)
    rfl
  | ok k =>
    obtain rfl := Host.Outcome.next.inj ((exec_keyexp_of_ok hcheck s).symm.trans ht)
    rfl

theorem exec_rdrk_S {round : Nat} {s t : State} (ht : exec (.rdrk round) s = .next t) : t.S = s.S := by
  rcases s.roundError_cases round with ⟨-, he⟩ | ⟨-, -, he⟩ | ⟨hv, hr, -⟩
  · obtain rfl := Host.Outcome.next.inj ((exec_rdrk_of_roundError he).symm.trans ht)
    rfl
  · obtain rfl := Host.Outcome.next.inj ((exec_rdrk_of_roundError he).symm.trans ht)
    rfl
  · obtain rfl := Host.Outcome.next.inj ((exec_rdrk_of_le_nr hv hr).symm.trans ht)
    rfl

theorem exec_gfmul_S {s t : State} (ht : exec .gfmul s = .next t) : t.S = s.S := by
  obtain rfl := Host.Outcome.next.inj ((exec_gfmul s).symm.trans ht)
  rfl

theorem exec_rdstate_S {s t : State} (ht : exec .rdstate s = .next t) : t.S = s.S := by
  obtain rfl := Host.Outcome.next.inj ((exec_rdstate s).symm.trans ht)
  rfl

end Sys2Proof.Machine

namespace Sys2Proof

open Machine

/-- Settles O46: of the events at the port only reset and an accepted command touch the key, and of the commands only a `KEYEXP`
that passes its checks. -/
theorem keyChangedOnlyByKeyexpOrReset : Obligations.KeyChangedOnlyByKeyexpOrReset := by
  intro s t hidle ht hkey
  rcases step_cases s with ⟨hrst, -⟩ | ⟨-, hbusy, -⟩ | ⟨-, -, -, -, hx⟩ | ⟨-, -, -, -, hx⟩ | ⟨-, -, hvalid, hcmd, hx⟩ |
    ⟨-, -, -, -, hx⟩
  case inl => exact .inl hrst
  case inr.inl => simp [hidle.inFlight] at hbusy
  case inr.inr.inr.inr.inl =>
    rcases perform_sameKey_or_keyexp (hx.symm.trans ht) with hsame | ⟨k, hdecode, rfl, hv, herr⟩
    · exact absurd hsame hkey
    · exact .inr ⟨s.cmdReady_iff.mpr ⟨hvalid, hidle.inFlight⟩, hcmd, hv, herr, _, _, hdecode, rfl, rfl⟩
  all_goals
    obtain rfl := Host.Outcome.next.inj (hx.symm.trans ht)
    exact absurd ⟨rfl, rfl, rfl⟩ hkey

/-- Settles O47: a failing command and the four named leave `S` as it was. -/
theorem stateWrittenOnlyByItsCommands : Obligations.StateWrittenOnlyByItsCommands := by
  intro i s t ht hS
  refine ⟨exec_rspErr_eq_ok_of_S_ne ht hS, ?_, ?_, ?_, ?_⟩
  · rintro ksel klen rfl
    exact hS (exec_keyexp_S ht)
  · rintro round rfl
    exact hS (exec_rdrk_S ht)
  · rintro rfl
    exact hS (exec_gfmul_S ht)
  · rintro rfl
    exact hS (exec_rdstate_S ht)

end Sys2Proof
end

section
/-! The multiplier's laws, its eight iterations, the key sizes and the round constants (spec/41_galois_multiply.md R131, R132;
spec/10_state.md R27; spec/40_lookup_tables.md R117). -/

namespace Sys2Proof

/-! ## The multiplier -/

/-- Doubling is a shift with the reduction of R130 (R132). -/
theorem gmul_two_right : ∀ a : Byte, gmul a 2 = (a <<< 1) ^^^ (if a.getLsbD 7 then 0x1B else 0) := by decide +kernel

/-- A byte is its lowest bit and twice the rest. -/
theorem byte_eq_bit_xor_double :
    ∀ b : Byte, b = (if b.getLsbD 0 then (1 : Byte) else 0) ^^^ gmul 2 (b >>> 1) := by decide +kernel

/-- The running `a` of an iteration is doubled (R131). -/
theorem ite_shift_eq_double (a : Byte) : (if a.getLsbD 7 then (a <<< 1) ^^^ 0x1B else a <<< 1) = gmul a 2 := by
  rw [gmul_two_right]
  split
  · rfl
  · exact (BitVec.xor_zero).symm

/-- What an iteration adds to the product (R131). -/
theorem gmul_eq_bit_xor_double (a b : Byte) :
    gmul a b = (if b.getLsbD 0 then a else 0) ^^^ gmul (gmul a 2) (b >>> 1) := by
  conv_lhs => rw [byte_eq_bit_xor_double b]
  rw [gmul_xor_right, ← gmul_assoc]
  split
  · rw [gmul_one_right]
  · exact congrArg (· ^^^ _) (gmul_zero_right a)

/-- `n` iterations add the product of `a` with a `b` of `n` bits to the running value (R131). -/
theorem gmulLoop_eq_xor_gmul (n : Nat) (p a b : Byte) (h : b.toNat < 2 ^ n) : gmulLoop n p a b = p ^^^ gmul a b := by
  induction n generalizing p a b with
  | zero =>
    obtain rfl : b = 0#8 := BitVec.eq_of_toNat_eq (by simpa using h)
    simp [gmulLoop]
  | succ n ih =>
    have hshift : (b >>> 1).toNat < 2 ^ n := by
      rw [BitVec.toNat_ushiftRight, Nat.shiftRight_eq_div_pow]
      omega
    rw [gmulLoop, ih _ _ _ hshift, ite_shift_eq_double, gmul_eq_bit_xor_double a b, ← BitVec.xor_assoc]
    split
    · rfl
    · exact congrArg (· ^^^ _) BitVec.xor_zero.symm

/-- Every byte but zero has exactly one inverse (R132). -/
theorem existsUnique_gmul_eq_one {a : Byte} (h : a ≠ 0) : ∃! x, gmul a x = 1 :=
  ⟨_, gmul_sboxAffineInverse_sbox a h, fun _ hy => gmul_eq_one_unique hy (gmul_sboxAffineInverse_sbox a h)⟩

/-- Settles O28: both factors distribute over XOR, and the rest follows. -/
theorem gmulFieldLaws : Obligations.GmulFieldLaws := fun a b c =>
  ⟨gmul_one_right a, gmul_one_left a, gmul_zero_right a, gmul_zero_left a, gmul_comm a b, gmul_xor_right a b c,
    gmul_assoc a b c, existsUnique_gmul_eq_one, by decide, gmul_two_right a⟩

/-- Settles O27: a byte has eight bits, and the iterations start from the product zero. -/
theorem gmulIterationAgrees : Obligations.GmulIterationAgrees := fun a b =>
  (gmulLoop_eq_xor_gmul 8 0 a b b.isLt).trans BitVec.zero_xor

/-! ## Key sizes and round constants -/

/-- Settles O26: `KSEL` has three values. -/
theorem keySizeTable : Obligations.KeySizeTable := by
  intro s
  cases s.ksel with
  | k128 => exact .inl ⟨rfl, rfl, rfl, rfl⟩
  | k192 => exact .inr (.inl ⟨rfl, rfl, rfl, rfl⟩)
  | k256 => exact .inr (.inr ⟨rfl, rfl, rfl, rfl⟩)

/-- The index of the round constant at a word of the schedule is at most 9 (R54 (b), R117). -/
theorem KeySize.rconIndex_le (k : KeySize) {i : Nat} (hi : i < k.words) : i / k.nk - 1 ≤ 9 := by
  cases k <;> simp only [KeySize.words, KeySize.nk, KeySize.nr] at hi ⊢ <;> omega

/-- Settles O31: the powers are ten closed products, and an index below `4*(Nr+1)` divided by `Nk` is at most 10. -/
theorem rconPowers : Obligations.RconPowers :=
  ⟨rfl, by decide, by decide, fun k _ _ hi _ => k.rconIndex_le hi, 40, by decide⟩

end Sys2Proof
end

section
/-! No read of a table, of `W` or of `RCON` takes its default (spec/20_memory.md R54, R56). -/

namespace Sys2Proof

/-- A read within a list returns its element, not the default. -/
theorem getElem?_eq_some_getD {α : Type} (l : List α) (d : α) {i : Nat} (h : i < l.length) : l[i]? = some (l.getD i d) := by
  simp [List.getD, h]

/-- Every byte has its entry in a grid of 16 rows of 16 entries (R54 (a)). -/
theorem gridEntry_found {grid : List (List Byte)} (hrows : grid.length = 16) (hrow : ∀ row ∈ grid, row.length = 16) (b : Byte) :
    ∃ row, grid[b.toNat / 16]? = some row ∧ row[b.toNat % 16]? = some (gridEntry grid b) := by
  have hb := b.isLt
  have hfound := getElem?_eq_some_getD grid [] (i := b.toNat / 16) (by omega)
  have hlen := hrow _ (List.mem_of_getElem? hfound)
  exact ⟨_, hfound, getElem?_eq_some_getD _ 0 (by omega)⟩

/-- Where the schedule XORs a round constant, the table has it (R54 (b), R146). -/
theorem KeySize.readsRconFor (k : KeySize) {i : Nat} (hi : i < k.words) (previous : Word) :
    k.ReadsRconFor i previous (scheduleTemp k.nk i previous) := by
  have hindex := k.rconIndex_le hi
  refine ⟨rfl, fun hmod => ⟨RCON (i / k.nk - 1), getElem?_eq_some_getD rconTable 0 (Nat.lt_succ_of_le hindex), ?_⟩⟩
  rw [scheduleTemp, if_pos hmod, rconWord]

theorem KeySize.nk_le (k : KeySize) : k.nk ≤ 8 := by cases k <;> decide

theorem KeySize.nr_le (k : KeySize) : k.nr ≤ 14 := by cases k <;> decide

end Sys2Proof

namespace Sys2Proof.Machine

/-- The sequencer's step of the schedule writes word `KI` and no other (R146). -/
theorem State.keyStage_W (s : State) (k : KeySize) :
    (s.keyStage k).W = s.W.setIfInBounds s.ki.toNat
      ((s.word (s.ki.toNat - k.nk)).xor (scheduleTemp k.nk s.ki.toNat (s.word (s.ki.toNat - 1)))) := by
  unfold State.keyStage
  dsimp only
  split <;> rfl

end Sys2Proof.Machine

namespace Sys2Proof

open Machine

/-- Settles O32: each index stands below the length of its space. -/
theorem indicesInRange : Obligations.IndicesInRange := by
  refine ⟨fun b => ⟨gridEntry_found (by decide) (by decide) b, gridEntry_found (by decide) (by decide) b⟩,
    fun s round h => ?roundKey, fun s i h => ?cipherKey, fun k key i h hi => ?schedule, fun s k h hi => ?sequencer⟩
  case roundKey =>
    have := s.ksel.nr_le
    exact ⟨_, _, _, _, s.W_getElem? (by omega), s.W_getElem? (by omega), s.W_getElem? (by omega), s.W_getElem? (by omega),
      rfl, rfl⟩
  case cipherKey =>
    have := s.ksel.nk_le
    exact s.W_getElem? (by omega)
  case schedule =>
    have hnk := k.nk_pos
    have hlen := expandWords_length k.nk key i
    exact ⟨_, _, _, getElem?_eq_some_getD _ Word.zero (by omega), getElem?_eq_some_getD _ Word.zero (by omega),
      k.readsRconFor hi _, if_neg (Nat.not_lt.mpr h)⟩
  case sequencer =>
    have hwords := k.words_le
    refine ⟨_, _, _, s.W_getElem? (by omega), s.W_getElem? (by omega), k.readsRconFor hi _, ?_⟩
    rw [State.keyStage_W]
    exact Vector.getElem?_setIfInBounds_self_of_lt (by omega)

end Sys2Proof
end

section
/-! After a successful `KEYEXP` the words of `W` spell the key (spec/42_key_schedule.md R151). -/

namespace Sys2Proof

/-- The bytes of the key words in `DIN`, in order, are the bytes of `DIN` (R52 mapping 1). -/
theorem flatMap_dinKeyWord_bytes (d : BitVec 256) (n : Nat) :
    ((List.range n).flatMap fun i => (dinKeyWord d i).bytes) = (List.range (4 * n)).map (dinByte d) := by
  induction n with
  | zero => rfl
  | succ n ih =>
    rw [List.range_succ, List.flatMap_append, ih, Nat.mul_succ, List.range_add, List.map_append]
    simp [Word.bytes, dinKeyWord, List.range_succ]

end Sys2Proof

namespace Sys2Proof.Machine

/-- After a `KEYEXP` of size `k` the CipherKey is the first `4*Nk` bytes of `DIN` (R29, R151). -/
theorem State.keyExpanded_cipherKey (s : State) (k : KeySize) :
    (s.keyExpanded k).cipherKey = (List.range (4 * k.nk)).map (dinByte s.din) := by
  rw [← flatMap_dinKeyWord_bytes]
  exact List.flatMap_congr fun i hi => by rw [s.keyExpanded_word_of_lt_nk (k := k) (List.mem_range.mp hi)]

/-- A `KEYEXP` that ends well passed its checks (R149). -/
theorem exec_keyexp_of_rspErr_eq_ok {ksel : BitVec 2} {klen : Nat} {s t : State} (ht : exec (.keyexp ksel klen) s = .next t)
    (hok : t.rspErr = .ok) : ∃ k : KeySize, klen = 4 * k.nk ∧ t = s.keyExpanded k := by
  rcases keyexpCheck_cases ksel klen with ⟨-, hcheck⟩ | ⟨k, -, -, hcheck⟩ | ⟨k, -, hlen, hcheck⟩
  · obtain rfl := Host.Outcome.next.inj ((exec_keyexp_of_error hcheck s).symm.trans ht)
    simp at hok
  · obtain rfl := Host.Outcome.next.inj ((exec_keyexp_of_error hcheck s).symm.trans ht)
    simp at hok
  · exact ⟨k, hlen, (Host.Outcome.next.inj ((exec_keyexp_of_ok hcheck s).symm.trans ht)).symm⟩

end Sys2Proof.Machine

namespace Sys2Proof

open Machine

/-- Settles O25: the command passed its checks, so `W` is the expansion of the key in `DIN`, whose first words are the key's. -/
theorem keyexpSpellsTheKey : Obligations.KeyexpSpellsTheKey := by
  intro s t ksel klen ht hok
  obtain ⟨k, rfl, rfl⟩ := exec_keyexp_of_rspErr_eq_ok ht hok
  have hkey := s.keyExpanded_cipherKey k
  refine ⟨hkey, by rw [hkey, List.length_map, List.length_range]; rfl, ⟨_, rfl⟩, fun i hi j => ?_⟩
  rw [s.keyExpanded_word_of_lt_nk (k := k) hi, dinKeyWord_byte]

end Sys2Proof
end

section
/-! The transforms of the State undo each other and commute (spec/43_state_transforms.md R164, R170, R176, R181). -/

namespace Sys2Proof

theorem invSubBytes_subBytes : Function.LeftInverse invSubBytes subBytes := fun m =>
  Mat4.ext_get fun r c => by rw [invSubBytes_get, subBytes_get, invsbox_leftInverse_sbox]

theorem subBytes_invSubBytes : Function.LeftInverse subBytes invSubBytes := fun m =>
  Mat4.ext_get fun r c => by rw [subBytes_get, invSubBytes_get, invsbox_rightInverse_sbox]

theorem invShiftRows_shiftRows : Function.LeftInverse invShiftRows shiftRows := fun m =>
  Mat4.ext_get fun r c => by rw [invShiftRows_get, shiftRows_get, sub_add_cancel]

theorem shiftRows_invShiftRows : Function.LeftInverse shiftRows invShiftRows := fun m =>
  Mat4.ext_get fun r c => by rw [shiftRows_get, invShiftRows_get, add_sub_cancel_right]

/-- Four row shifts move every byte once round its row (R164). -/
theorem shiftRows_four (m : Mat4) : shiftRows (shiftRows (shiftRows (shiftRows m))) = m := by
  have hround : ∀ r c : Fin 4, c + r + r + r + r = c := by decide
  exact Mat4.ext_get fun r c => by simp only [shiftRows_get, hround]

theorem subBytes_shiftRows (m : Mat4) : subBytes (shiftRows m) = shiftRows (subBytes m) :=
  Mat4.ext_get fun r c => by simp

theorem invSubBytes_invShiftRows (m : Mat4) : invSubBytes (invShiftRows m) = invShiftRows (invSubBytes m) :=
  Mat4.ext_get fun r c => by simp

/-- The coefficients of two column mixes in a row: the cyclic convolution of the two rows of coefficients (R173). -/
def circulantMul (g f : Fin 4 → Byte) (k : Fin 4) : Byte :=
  match k with
  | 0 => gmul (g 0) (f 0) ^^^ gmul (g 1) (f 3) ^^^ gmul (g 2) (f 2) ^^^ gmul (g 3) (f 1)
  | 1 => gmul (g 0) (f 1) ^^^ gmul (g 1) (f 0) ^^^ gmul (g 2) (f 3) ^^^ gmul (g 3) (f 2)
  | 2 => gmul (g 0) (f 2) ^^^ gmul (g 1) (f 1) ^^^ gmul (g 2) (f 0) ^^^ gmul (g 3) (f 3)
  | 3 => gmul (g 0) (f 3) ^^^ gmul (g 1) (f 2) ^^^ gmul (g 2) (f 1) ^^^ gmul (g 3) (f 0)

/-- Two column mixes are one by the convolution of their coefficients, row by row: the product of bytes distributes over XOR
and is associative. -/
theorem mixWith_mixWith (g f : Fin 4 → Byte) (m : Mat4) : mixWith g (mixWith f m) = mixWith (circulantMul g f) m := by
  refine Mat4.ext_get fun r c => ?_
  match r with
  | 0 | 1 | 2 | 3 =>
    simp only [mixWith_get_0, mixWith_get_1, mixWith_get_2, mixWith_get_3, circulantMul, gmul_xor_left, gmul_xor_right,
      gmul_assoc]
    ac_rfl

/-- The coefficients `1, 0, 0, 0` mix nothing. -/
theorem mixWith_one {f : Fin 4 → Byte} (h0 : f 0 = 1) (h1 : f 1 = 0) (h2 : f 2 = 0) (h3 : f 3 = 0) (m : Mat4) :
    mixWith f m = m := by
  have hzero : ∀ x : Byte, gmul 0 x = 0 := gmul_zero_left
  refine Mat4.ext_get fun r c => ?_
  match r with
  | 0 | 1 | 2 | 3 =>
    simp only [mixWith_get_0, mixWith_get_1, mixWith_get_2, mixWith_get_3, h0, h1, h2, h3, gmul_one_left, hzero]
    simp

theorem invMixColumns_mixColumns : Function.LeftInverse invMixColumns mixColumns := fun m =>
  (mixWith_mixWith invMixCoeff mixCoeff m).trans (mixWith_one (by decide) (by decide) (by decide) (by decide) m)

theorem mixColumns_invMixColumns : Function.LeftInverse mixColumns invMixColumns := fun m =>
  (mixWith_mixWith mixCoeff invMixCoeff m).trans (mixWith_one (by decide) (by decide) (by decide) (by decide) m)

end Sys2Proof
end

section
/-! The transforms as commands, one after another (spec/43_state_transforms.md R164, R170, R176, R179 to R181;
spec/44_cipher_engine.md R194). -/

namespace Sys2Proof.Machine

/-- From every state with the key of `s` the command `i` writes `f` of the State and responds: what the seven transforms have in
common (R180). -/
def State.Applies (s : State) (i : Instr) (f : Mat4 → Mat4) : Prop :=
  ∀ t, s.SameKey t → exec i t = .next ((t.setS (f t.S)).respond [])

theorem State.applies_subbytes (s : State) : s.Applies .subbytes subBytes := fun t _ => exec_subbytes t
theorem State.applies_invsubbytes (s : State) : s.Applies .invsubbytes invSubBytes := fun t _ => exec_invsubbytes t
theorem State.applies_shiftrows (s : State) : s.Applies .shiftrows shiftRows := fun t _ => exec_shiftrows t
theorem State.applies_invshiftrows (s : State) : s.Applies .invshiftrows invShiftRows := fun t _ => exec_invshiftrows t
theorem State.applies_mixcolumns (s : State) : s.Applies .mixcolumns mixColumns := fun t _ => exec_mixcolumns t
theorem State.applies_invmixcolumns (s : State) : s.Applies .invmixcolumns invMixColumns := fun t _ => exec_invmixcolumns t

/-- `ADDROUNDKEY` of a round of the key is a transform while the key stays (R178). -/
theorem State.applies_addroundkey {s : State} {round : Nat} (hv : s.kvalid = true) (hr : round ≤ s.ksel.nr) :
    s.Applies (.addroundkey round) (addRoundKey (s.roundKey round)) := by
  rintro t ⟨hW, hksel, hkvalid⟩
  rw [exec_addroundkey_of_le_nr (hkvalid.trans hv) (hksel ▸ hr), State.roundKey_congr hW]

theorem State.sameKey_refl (s : State) : s.SameKey s := ⟨rfl, rfl, rfl⟩

section

variable {s : State} {i j : Instr} {f g : Mat4 → Mat4} (hi : s.Applies i f) (hj : s.Applies j g)

include hi

theorem State.Applies.answersOk : ∃ t, exec i s = .next t ∧ t.AnswersOk ∧ s.SameKey t :=
  ⟨_, hi s s.sameKey_refl, State.answersOk_respond _, s.sameKey_setS_respond _ _⟩

/-- What a transform leaves (R180). -/
theorem State.Applies.leavesS_iff (x m : Mat4) : (s.setS x).LeavesS i m ↔ f x = m := by
  have hx := hi (s.setS x) s.sameKey_refl
  constructor
  · rintro ⟨t, ht, -, rfl⟩
    obtain rfl := Host.Outcome.next.inj (hx.symm.trans ht)
    rfl
  · rintro rfl
    exact ⟨_, hx, rfl, rfl⟩

/-- A transform with an inverse on both sides reaches every State from exactly one (R180). -/
theorem State.Applies.existsUnique (hgf : Function.LeftInverse g f) (hfg : Function.LeftInverse f g) (m : Mat4) :
    ∃! x, (s.setS x).LeavesS i m := by
  simp only [hi.leavesS_iff]
  exact ⟨g m, hfg m, fun x hx => by rw [← hx, hgf]⟩

include hj

theorem State.Applies.restores (hgf : Function.LeftInverse g f) : s.Restores i j :=
  ⟨_, _, hi s s.sameKey_refl, hj _ (s.sameKey_setS_respond _ _), hgf s.S⟩

theorem State.Applies.commute (hfg : ∀ m, g (f m) = f (g m)) : s.Commute i j :=
  ⟨_, _, _, _, hi s s.sameKey_refl, hj _ (s.sameKey_setS_respond _ _), hj s s.sameKey_refl,
    hi _ (s.sameKey_setS_respond _ _), hfg s.S⟩

/-- The clauses of R180 for one transform and its inverse. -/
theorem State.Applies.bijection (hgf : Function.LeftInverse g f) (hfg : Function.LeftInverse f g) :
    (∃ t, exec i s = .next t ∧ t.AnswersOk ∧ s.SameKey t) ∧ s.Restores i j ∧ ∀ m : Mat4, ∃! x, (s.setS x).LeavesS i m :=
  ⟨hi.answersOk, hi.restores hj hgf, hi.existsUnique hgf hfg⟩

end

/-- Every byte of a response or of a block is one of the 16 cells (R190). -/
theorem exists_cell {k : Nat} (hk : k < 16) : ∃ r c : Fin 4, k = r.val + 4 * c.val :=
  ⟨⟨k % 4, by omega⟩, ⟨k / 4, by omega⟩, by simp only; omega⟩

/-- Byte `r + 4*c` of what `RDRK` responds is the cell of the round key as a State (R179). -/
theorem State.respond_roundKeyBytes_dout_cell (s : State) (round : Nat) (r c : Fin 4) :
    doutByte (s.respond (s.roundKeyBytes round)).rspData (r.val + 4 * c.val) = (s.roundKey round).get r c := by
  rw [Nat.add_comm, State.respond_roundKeyBytes_dout, State.roundKey_get]

end Sys2Proof.Machine

namespace Sys2Proof

open Machine

/-- Settles O34: the transforms of the State are inverses; four row shifts are the identity. -/
theorem subAndShiftInverses : Obligations.SubAndShiftInverses := fun s =>
  ⟨s.applies_subbytes.restores s.applies_invsubbytes invSubBytes_subBytes,
    s.applies_invsubbytes.restores s.applies_subbytes subBytes_invSubBytes,
    s.applies_shiftrows.restores s.applies_invshiftrows invShiftRows_shiftRows,
    s.applies_invshiftrows.restores s.applies_shiftrows shiftRows_invShiftRows,
    _, _, _, _, exec_shiftrows _, exec_shiftrows _, exec_shiftrows _, exec_shiftrows _, shiftRows_four s.S⟩

/-- Settles O35: the coefficients of the two mixes convolve to `1, 0, 0, 0`. -/
theorem mixColumnsInverses : Obligations.MixColumnsInverses := fun s =>
  ⟨s.applies_mixcolumns.restores s.applies_invmixcolumns invMixColumns_mixColumns,
    s.applies_invmixcolumns.restores s.applies_mixcolumns mixColumns_invMixColumns⟩

/-- Settles O36: cell by cell, each cell at its place in the block. -/
theorem addRoundKeyIsBlockXor : Obligations.AddRoundKeyIsBlockXor := by
  intro s round hv hr
  refine ⟨_, _, _, _, exec_rdstate s, exec_rdrk_of_le_nr hv hr, exec_addroundkey_of_le_nr hv hr, exec_rdstate _, fun j hj => ?_⟩
  obtain ⟨r, c, rfl⟩ := exists_cell hj
  rw [State.respond_block_dout, State.respond_block_dout, State.respond_roundKeyBytes_dout_cell, State.respond_S,
    State.setS_S, addRoundKey_get]

/-- Settles O37: a substitution acts on each byte alone, a shift only moves them. -/
theorem subAndShiftCommute : Obligations.SubAndShiftCommute := fun s =>
  ⟨s.applies_subbytes.commute s.applies_shiftrows fun m => (subBytes_shiftRows m).symm,
    s.applies_invsubbytes.commute s.applies_invshiftrows fun m => (invSubBytes_invShiftRows m).symm⟩

/-- Settles O38: the seven transforms, each with its inverse. -/
theorem transformsAreBijections : Obligations.TransformsAreBijections := by
  intro s round i j hij hround
  simp only [List.mem_cons, Prod.mk.injEq, List.not_mem_nil, or_false] at hij
  rcases hij with ⟨rfl, rfl⟩ | ⟨rfl, rfl⟩ | ⟨rfl, rfl⟩ | ⟨rfl, rfl⟩ | ⟨rfl, rfl⟩ | ⟨rfl, rfl⟩ | ⟨rfl, rfl⟩
  · exact s.applies_subbytes.bijection s.applies_invsubbytes invSubBytes_subBytes subBytes_invSubBytes
  · exact s.applies_invsubbytes.bijection s.applies_subbytes subBytes_invSubBytes invSubBytes_subBytes
  · exact s.applies_shiftrows.bijection s.applies_invshiftrows invShiftRows_shiftRows shiftRows_invShiftRows
  · exact s.applies_invshiftrows.bijection s.applies_shiftrows shiftRows_invShiftRows invShiftRows_shiftRows
  · exact s.applies_mixcolumns.bijection s.applies_invmixcolumns invMixColumns_mixColumns mixColumns_invMixColumns
  · exact s.applies_invmixcolumns.bijection s.applies_mixcolumns mixColumns_invMixColumns invMixColumns_mixColumns
  · obtain ⟨hv, hr⟩ := hround rfl
    exact (State.applies_addroundkey hv hr).bijection (State.applies_addroundkey hv hr) (addRoundKey_addRoundKey _)
      (addRoundKey_addRoundKey _)

/-- Settles O39: the block loaded and the block read have the same column-major order. -/
theorem loadThenReadReturnsBlock : Obligations.LoadThenReadReturnsBlock := by
  intro s
  refine ⟨_, _, exec_ldstate s, exec_rdstate _, rfl, fun k hk => ?_⟩
  obtain ⟨r, c, rfl⟩ := exists_cell hk
  rw [State.respond_block_dout]
  exact dinBlock_get s.din r c

end Sys2Proof
end

section
/-! The block commands undo each other, and each is a sequence of single transforms (spec/44_cipher_engine.md R198, R202, R204;
spec/30_encoding.md R90, R91). -/

namespace Sys2Proof

/-! ## The pipelines undo each other -/

theorem invMainStage_mainStage (key m : Mat4) : invMainStage key (mainStage key m) = m := by
  rw [invMainStage, mainStage, addRoundKey_addRoundKey, invMixColumns_mixColumns, invShiftRows_shiftRows, invSubBytes_subBytes]

theorem mainStage_invMainStage (key m : Mat4) : mainStage key (invMainStage key m) = m := by
  rw [invMainStage, mainStage, subBytes_invSubBytes, shiftRows_invShiftRows, mixColumns_invMixColumns, addRoundKey_addRoundKey]

theorem invFinalStage_finalStage (key m : Mat4) : invFinalStage key (finalStage key m) = m := by
  rw [invFinalStage, finalStage, addRoundKey_addRoundKey, invShiftRows_shiftRows, invSubBytes_subBytes]

theorem finalStage_invFinalStage (key m : Mat4) : finalStage key (invFinalStage key m) = m := by
  rw [invFinalStage, finalStage, subBytes_invSubBytes, shiftRows_invShiftRows, addRoundKey_addRoundKey]

theorem invMainStages_mainStages (key : Nat → Mat4) (n : Nat) (m : Mat4) : invMainStages key n (mainStages key n m) = m := by
  induction n with
  | zero => rfl
  | succ n ih => rw [mainStages, invMainStages, invMainStage_mainStage, ih]

theorem mainStages_invMainStages (key : Nat → Mat4) (n : Nat) (m : Mat4) : mainStages key n (invMainStages key n m) = m := by
  induction n generalizing m with
  | zero => rfl
  | succ n ih => rw [mainStages, invMainStages, ih, mainStage_invMainStage]

theorem decryptBlock_encryptBlock (key : Nat → Mat4) (nr : Nat) (m : Mat4) :
    decryptBlock key nr (encryptBlock key nr m) = m := by
  rw [decryptBlock, encryptBlock, invFinalStage_finalStage, invMainStages_mainStages, addRoundKey_addRoundKey]

theorem encryptBlock_decryptBlock (key : Nat → Mat4) (nr : Nat) (m : Mat4) :
    encryptBlock key nr (decryptBlock key nr m) = m := by
  rw [decryptBlock, encryptBlock, addRoundKey_addRoundKey, mainStages_invMainStages, finalStage_invFinalStage]

end Sys2Proof

namespace Sys2Proof.Machine

/-- The word of a well-formed command runs it on the sampled state (R89). -/
theorem perform_encode {i : Instr} (hwf : i.wellFormed = true) (d : BitVec 256) (s : State) :
    perform (encode i) d s = exec i (s.sample (Pins.command (encode i) d)) :=
  perform_of_decode_eq_ok (decodeEncodeAgree i hwf) d s

/-- With a key the command `i` ends with the block `f` of the round keys, `Nr` and the block in `DIN`: the form of `ENC` and
`DEC` (R196, R200). -/
def IsBlockCommand (i : Instr) (f : (Nat → Mat4) → Nat → Mat4 → Mat4) : Prop :=
  i.wellFormed = true ∧
    ∀ s : State, s.kvalid = true → exec i s = .next (s.finishBlock (f s.roundKey s.ksel.nr (dinBlock s.din)))

theorem isBlockCommand_enc : IsBlockCommand .enc encryptBlock := ⟨rfl, fun _ => exec_enc_of_kvalid⟩

theorem isBlockCommand_dec : IsBlockCommand .dec decryptBlock := ⟨rfl, fun _ => exec_dec_of_kvalid⟩

/-- At the port the block is the one presented with the word (R36). -/
theorem IsBlockCommand.perform {i : Instr} {f : (Nat → Mat4) → Nat → Mat4 → Mat4} (h : IsBlockCommand i f) {s : State}
    (hv : s.kvalid = true) (d : BitVec 256) :
    perform (encode i) d s =
      .next ((s.sample (Pins.command (encode i) d)).finishBlock (f s.roundKey s.ksel.nr (dinBlock d))) :=
  (perform_encode h.1 d s).trans (h.2 _ hv)

/-- The bytes a pipeline's end presents, presented again as data, are its result (R204). -/
theorem State.dinBlock_of_finishBlock_dout {s : State} {m : Mat4} {e : BitVec 256}
    (h : ∀ k < 16, dinByte e k = doutByte (s.finishBlock m).rspData k) : dinBlock e = m := by
  refine Mat4.ext_get fun r c => ?_
  rw [dinBlock_get, h _ (by omega)]
  exact (s.setS m).respond_block_dout m r c

/-- The bytes a pipeline's end presents when its result is the block in `DIN` (R204). -/
theorem State.finishBlock_dinBlock_dout (s : State) (d : BitVec 256) {k : Nat} (hk : k < 16) :
    doutByte (s.finishBlock (dinBlock d)).rspData k = dinByte d k := by
  rw [State.finishBlock_dout _ _ hk]
  exact Mat4.blockByte_ofBlock _ hk

/-- Of two block commands of which the second undoes the first, the second returns what the first was given (R204). -/
theorem IsBlockCommand.roundTrip {i j : Instr} {f g : (Nat → Mat4) → Nat → Mat4 → Mat4} (hi : IsBlockCommand i f)
    (hj : IsBlockCommand j g) (hgf : ∀ key nr m, g key nr (f key nr m) = m) {s : State} (hv : s.kvalid = true)
    (d e : BitVec 256) :
    ∃ t, Machine.perform (encode i) d s = .next t ∧ t.rspErr = .ok ∧
      ((∀ k < 16, dinByte e k = doutByte t.rspData k) →
        ∃ u, Machine.perform (encode j) e t = .next u ∧ u.rspErr = .ok ∧ ∀ k < 16, doutByte u.rspData k = dinByte d k) := by
  refine ⟨_, hi.perform hv d, rfl, fun he => ⟨_, hj.perform (by exact hv) e, rfl, fun k hk => ?_⟩⟩
  rw [State.dinBlock_of_finishBlock_dout he]
  refine Eq.trans ?_ (State.finishBlock_dinBlock_dout s d hk)
  exact congrArg (fun m => doutByte (s.finishBlock m).rspData k) (hgf s.roundKey s.ksel.nr (dinBlock d))

/-! ## The block commands as sequences of lines -/

/-- From every state with the key of `s` the lines run and leave `f` of the State, with the same key (R58, R90). -/
def State.LinesApply (s : State) (ls : List AsmLine) (f : Mat4 → Mat4) : Prop :=
  ∀ t, s.SameKey t → ∃ u, performAll (ls.map AsmLine.presented) t = .next u ∧ s.SameKey u ∧ u.S = f t.S

theorem State.linesApply_nil (s : State) : s.LinesApply [] id := fun t ht => ⟨t, rfl, ht, rfl⟩

theorem State.LinesApply.append {s : State} {l l' : List AsmLine} {f g : Mat4 → Mat4} (h : s.LinesApply l f)
    (h' : s.LinesApply l' g) : s.LinesApply (l ++ l') (g ∘ f) := by
  intro t ht
  obtain ⟨u, hu, hukey, huS⟩ := h t ht
  obtain ⟨v, hv, hvkey, hvS⟩ := h' u hukey
  refine ⟨v, ?_, hvkey, hvS.trans (congrArg g huS)⟩
  rw [List.map_append, performAll_append hu, hv]

/-- A line of one command runs it on the sampled state (R89, R90). -/
theorem performAll_line {i : Instr} (hwf : i.wellFormed = true) {data : List Byte} {t u : State}
    (h : exec i (t.sample (Pins.command (encode i) (packDin data))) = .next u) :
    performAll ([AsmLine.command i data].map AsmLine.presented) t = .next u := by
  have hperform := (perform_encode hwf (packDin data) t).trans h
  simp only [List.map, performAll, AsmLine.presented, AsmLine.cmdWord, AsmLine.cmdData, hperform]

/-- A transform as a line (R90). -/
theorem State.Applies.line {s : State} {i : Instr} {f : Mat4 → Mat4} (h : s.Applies i f) (hwf : i.wellFormed = true) :
    s.LinesApply [.command i []] f := fun _ ht =>
  ⟨_, performAll_line hwf (h _ ht), ht, rfl⟩

/-- `LDSTATE` as a line writes the block given over whatever State there is (R191). -/
theorem State.linesApply_ldstate (s : State) (b : List Byte) :
    s.LinesApply [.command .ldstate b] fun _ => dinBlock (packDin b) := fun _ ht =>
  ⟨_, performAll_line rfl (exec_ldstate _), ht, rfl⟩

section

variable {s : State} (hv : s.kvalid = true)

include hv

/-- `ADDROUNDKEY` as a line, alone: `INITSTAGE` and `INVINITSTAGE` are round 0 (R91). -/
theorem State.linesApply_addroundkey {r : Nat} (hr : r ≤ s.ksel.nr) :
    s.LinesApply [.command (.addroundkey r) []] (addRoundKey (s.roundKey r)) :=
  have := s.ksel.nr_le
  (State.applies_addroundkey hv hr).line (decide_eq_true (by omega))

/-- `MAINSTAGE r` (R91, R195). -/
theorem State.linesApply_mainstage {r : Nat} (hr : r ≤ s.ksel.nr) :
    s.LinesApply (Pseudo.mainstage r).expand (mainStage (s.roundKey r)) :=
  (s.applies_subbytes.line rfl).append <| (s.applies_shiftrows.line rfl).append <|
    (s.applies_mixcolumns.line rfl).append <| State.linesApply_addroundkey hv hr

/-- `FINALSTAGE r` (R91, R195). -/
theorem State.linesApply_finalstage {r : Nat} (hr : r ≤ s.ksel.nr) :
    s.LinesApply (Pseudo.finalstage r).expand (finalStage (s.roundKey r)) :=
  (s.applies_subbytes.line rfl).append <| (s.applies_shiftrows.line rfl).append <| State.linesApply_addroundkey hv hr

/-- `INVMAINSTAGE r` (R91, R200). -/
theorem State.linesApply_invmainstage {r : Nat} (hr : r ≤ s.ksel.nr) :
    s.LinesApply (Pseudo.invmainstage r).expand (invMainStage (s.roundKey r)) :=
  (State.linesApply_addroundkey hv hr).append <| (s.applies_invmixcolumns.line rfl).append <|
    (s.applies_invshiftrows.line rfl).append <| s.applies_invsubbytes.line rfl

/-- `INVFINALSTAGE r` (R91, R200). -/
theorem State.linesApply_invfinalstage {r : Nat} (hr : r ≤ s.ksel.nr) :
    s.LinesApply (Pseudo.invfinalstage r).expand (invFinalStage (s.roundKey r)) :=
  (State.linesApply_addroundkey hv hr).append <| (s.applies_invshiftrows.line rfl).append <| s.applies_invsubbytes.line rfl

/-- `MAINSTAGE 1` to `MAINSTAGE n` (R198). -/
theorem State.linesApply_mainStageLines {n : Nat} (hn : n ≤ s.ksel.nr) :
    s.LinesApply (mainStageLines n) (mainStages s.roundKey n) := by
  induction n with
  | zero => exact s.linesApply_nil
  | succ n ih => exact (ih (by omega)).append (State.linesApply_mainstage hv hn)

/-- `INVMAINSTAGE n` down to `INVMAINSTAGE 1` (R202). -/
theorem State.linesApply_invMainStageLines {n : Nat} (hn : n ≤ s.ksel.nr) :
    s.LinesApply (invMainStageLines n) (invMainStages s.roundKey n) := by
  induction n with
  | zero => exact s.linesApply_nil
  | succ n ih => exact (State.linesApply_invmainstage hv hn).append (ih (by omega))

/-- The lines of `ENC` (R198). -/
theorem State.linesApply_encLines (b : List Byte) :
    s.LinesApply (encLines s.ksel.nr b) fun _ => encryptBlock s.roundKey s.ksel.nr (dinBlock (packDin b)) :=
  (((s.linesApply_ldstate b).append (State.linesApply_addroundkey hv (Nat.zero_le _))).append
    (State.linesApply_mainStageLines hv (Nat.sub_le _ _))).append (State.linesApply_finalstage hv le_rfl)

/-- The lines of `DEC` (R202). -/
theorem State.linesApply_decLines (b : List Byte) :
    s.LinesApply (decLines s.ksel.nr b) fun _ => decryptBlock s.roundKey s.ksel.nr (dinBlock (packDin b)) :=
  (((s.linesApply_ldstate b).append (State.linesApply_invfinalstage hv le_rfl)).append
    (State.linesApply_invMainStageLines hv (Nat.sub_le _ _))).append (State.linesApply_addroundkey hv (Nat.zero_le _))

/-- A block command and lines that compute its block agree in `S` and, after a `RDSTATE`, in the response (R198, R202). -/
theorem IsBlockCommand.sequence {i : Instr} {f : (Nat → Mat4) → Nat → Mat4 → Mat4} (h : IsBlockCommand i f) {b : List Byte}
    {ls : List AsmLine} (hls : s.LinesApply ls fun _ => f s.roundKey s.ksel.nr (dinBlock (packDin b))) :
    ∃ t u, Machine.perform (encode i) (packDin b) s = .next t ∧
      performAll ((ls ++ [AsmLine.command .rdstate []]).map AsmLine.presented) s = .next u ∧
      t.rspErr = .ok ∧ u.rspErr = .ok ∧ u.S = t.S ∧ u.rspData = t.rspData := by
  obtain ⟨v, hrun, -, hS⟩ := hls s s.sameKey_refl
  have hread := performAll_line (i := .rdstate) (data := []) rfl (exec_rdstate (v.sample _))
  rw [List.map_append, performAll_append hrun]
  exact ⟨_, _, h.perform hv (packDin b), hread, rfl, rfl, hS, congrArg (fun m : Mat4 => packDout m.block) hS⟩

end

/-- Without a key a block command fails and leaves `S` alone, while its sequence loads the block and fails at its first
`ADDROUNDKEY` (R198, R202). -/
theorem blockCommand_sequence_noKey {i : Instr} (hwf : i.wellFormed = true)
    (herr : ∀ {s : State}, s.kvalid = false → exec i s = .next (s.raise .noKey)) {s : State} (hv : s.kvalid = false)
    (b : List Byte) {round : Nat} (hround : round < 16) :
    ∃ t u v, perform (encode i) (packDin b) s = .next t ∧ t.rspErr = .noKey ∧ t.S = s.S ∧
      performAll [(AsmLine.command .ldstate b).presented] s = .next u ∧ u.rspErr = .ok ∧
      (∀ r c : Fin 4, u.S.get r c = b.getD (r.val + 4 * c.val) 0) ∧
      perform (encode (.addroundkey round)) 0 u = .next v ∧ v.rspErr = .noKey ∧ v.S = u.S := by
  have hfail : ∀ t : State, t.kvalid = false → exec (.addroundkey round) t = .next (t.raise .noKey) := fun t ht =>
    exec_addroundkey_of_roundError (by simp [State.roundError, ht])
  have hfits : (Instr.addroundkey round).wellFormed = true := decide_eq_true hround
  refine ⟨_, _, _, (perform_encode hwf _ s).trans (herr hv), rfl, rfl, performAll_line rfl (exec_ldstate _), rfl, fun r c => ?_,
    (perform_encode hfits 0 _).trans (hfail _ hv), rfl, rfl⟩
  exact (dinBlock_get _ r c).trans (dinByte_packDin b (by omega))

end Sys2Proof.Machine

namespace Sys2Proof

open Machine

/-- Settles O43: each pipeline undoes the other, with the same round keys. -/
theorem encDecRoundTrip : Obligations.EncDecRoundTrip := by
  intro s d e i j hv hij
  simp only [List.mem_cons, Prod.mk.injEq, List.not_mem_nil, or_false] at hij
  rcases hij with ⟨rfl, rfl⟩ | ⟨rfl, rfl⟩
  · exact isBlockCommand_enc.roundTrip isBlockCommand_dec decryptBlock_encryptBlock hv d e
  · exact isBlockCommand_dec.roundTrip isBlockCommand_enc encryptBlock_decryptBlock hv d e

/-- Settles O41: the lines compute the forward pipeline, stage by stage. -/
theorem encAsSequence : Obligations.EncAsSequence := fun s b =>
  ⟨fun hv => isBlockCommand_enc.sequence hv (State.linesApply_encLines hv b),
    fun hv => blockCommand_sequence_noKey rfl exec_enc_of_not_kvalid hv b (by decide)⟩

/-- Settles O42: the lines compute the inverse pipeline, stage by stage. -/
theorem decAsSequence : Obligations.DecAsSequence := fun s b =>
  ⟨fun hv => isBlockCommand_dec.sequence hv (State.linesApply_decLines hv b),
    fun hv => blockCommand_sequence_noKey rfl exec_dec_of_not_kvalid hv b (Nat.lt_of_le_of_lt s.ksel.nr_le (by decide))⟩

end Sys2Proof
end

section
/-! What a command reads (spec/30_encoding.md R85; spec/20_memory.md R58): the architectural state and the bytes of `DIN` it
uses, and nothing else. -/

namespace Sys2Proof

/-- The ExpandedKey depends on the key words only (R146). -/
theorem expandWords_congr {nk : Nat} {key key' : Nat → Word} (h : ∀ i < nk, key' i = key i) (n : Nat) :
    expandWords nk key' n = expandWords nk key n := by
  induction n with
  | zero => rfl
  | succ n ih =>
    have hword : scheduleWord nk key' (expandWords nk key n) n = scheduleWord nk key (expandWords nk key n) n := by
      unfold scheduleWord
      split
      next hn => exact h n hn
      next => rfl
    rw [expandWords, expandWords, ih, hword]

theorem keyMemory_congr {k : KeySize} {key key' : Nat → Word} (h : ∀ i < k.nk, key' i = key i) :
    keyMemory k key' = keyMemory k key := by
  apply Vector.ext
  intro i hi
  rw [keyMemory_getElem, keyMemory_getElem, expand, expand, expandWords_congr h]

/-- A key word of `DIN` depends on its four bytes only (R52). -/
theorem dinKeyWord_congr {d e : BitVec 256} {n i : Nat} (h : ∀ k < 4 * n, dinByte e k = dinByte d k) (hi : i < n) :
    dinKeyWord e i = dinKeyWord d i :=
  Word.ext_byte fun j => by rw [dinKeyWord_byte, dinKeyWord_byte, h _ (by omega)]

end Sys2Proof

namespace Sys2Proof.Machine

/-- `t` after a command that left the architectural state and the response of `u` (R20, R36). -/
def State.answeredAs (t u : State) : State :=
  { t with
    S := u.S, W := u.W, ksel := u.ksel, kvalid := u.kvalid
    rspValid := u.rspValid, rspErr := u.rspErr, rspData := u.rspData }

section

variable {s t : State} (h : s.SameArch t)

include h

theorem State.SameArch.answeredAs_raise (e : ErrCode) : t.answeredAs (s.raise e) = t.raise e := by
  obtain ⟨hS, hW, hksel, hkvalid⟩ := h
  simp only [State.answeredAs, State.raise, hS, hW, hksel, hkvalid]

theorem State.SameArch.answeredAs_respond (b : List Byte) : t.answeredAs (s.respond b) = t.respond b := by
  obtain ⟨hS, hW, hksel, hkvalid⟩ := h
  simp only [State.answeredAs, State.respond, hS, hW, hksel, hkvalid]

theorem State.SameArch.answeredAs_setS_respond (m : Mat4) (b : List Byte) :
    t.answeredAs ((s.setS m).respond b) = (t.setS m).respond b := by
  obtain ⟨-, hW, hksel, hkvalid⟩ := h
  simp only [State.answeredAs, State.respond, State.setS, hW, hksel, hkvalid]

theorem State.SameArch.answeredAs_keyExpanded {k : KeySize} (hdin : ∀ j < 4 * k.nk, dinByte t.din j = dinByte s.din j) :
    t.answeredAs (s.keyExpanded k) = t.keyExpanded k := by
  obtain ⟨hS, -, -, -⟩ := h
  have hW : keyMemory k (dinKeyWord t.din) = keyMemory k (dinKeyWord s.din) :=
    keyMemory_congr fun i hi => dinKeyWord_congr hdin hi
  simp only [State.answeredAs, State.keyExpanded, State.respond, State.loadKey, hS, hW]

/-- A command that writes a function of the State does the same to the same State. -/
theorem State.SameArch.exec_of_writes {i : Instr} {f : Mat4 → Mat4}
    (hi : ∀ s, exec i s = .next ((s.setS (f s.S)).respond [])) :
    ∃ u, exec i s = .next u ∧ exec i t = .next (t.answeredAs u) :=
  ⟨_, hi s, by rw [hi t, h.answeredAs_setS_respond, h.1]⟩

/-- So does a block command with the same block. -/
theorem State.SameArch.exec_of_isBlockCommand {i : Instr} {f : (Nat → Mat4) → Nat → Mat4 → Mat4} (hi : IsBlockCommand i f)
    (herr : ∀ {s : State}, s.kvalid = false → exec i s = .next (s.raise .noKey))
    (hdin : ∀ k < 16, dinByte t.din k = dinByte s.din k) :
    ∃ u, exec i s = .next u ∧ exec i t = .next (t.answeredAs u) := by
  have ⟨_, hW, hksel, hkvalid⟩ := h
  cases hv : s.kvalid with
  | false => exact ⟨_, herr hv, by rw [herr (hkvalid.trans hv), h.answeredAs_raise]⟩
  | true =>
    have hround : t.roundKey = s.roundKey := funext (State.roundKey_congr hW)
    refine ⟨_, hi.2 s hv, ?_⟩
    rw [hi.2 t (hkvalid.trans hv), State.finishBlock, State.finishBlock, h.answeredAs_setS_respond, hround, hksel,
      dinBlock_congr hdin]

/-- The round commands make the same check on the same key (R248 (3)). -/
theorem State.SameArch.roundError (round : Nat) : t.roundError round = s.roundError round := by
  obtain ⟨-, -, hksel, hkvalid⟩ := h
  simp only [State.roundError, hksel, hkvalid]

theorem State.SameArch.roundKeyBytes (round : Nat) : t.roundKeyBytes round = s.roundKeyBytes round := by
  obtain ⟨-, hW, -, -⟩ := h
  simp only [State.roundKeyBytes, State.word, hW]

/-- From the same architectural state, with the same bytes in the part of `DIN` it uses, a command does the same (R58, R85). -/
theorem State.SameArch.exec_congr {i : Instr} (hdin : ∀ k < i.dinUsed, dinByte t.din k = dinByte s.din k) :
    ∃ u, exec i s = .next u ∧ exec i t = .next (t.answeredAs u) := by
  cases i with
  | keyexp ksel klen =>
    rcases keyexpCheck_cases ksel klen with ⟨-, hc⟩ | ⟨k, -, -, hc⟩ | ⟨k, -, rfl, hc⟩
    · exact ⟨_, exec_keyexp_of_error hc s, by rw [exec_keyexp_of_error hc t, h.answeredAs_raise]⟩
    · exact ⟨_, exec_keyexp_of_error hc s, by rw [exec_keyexp_of_error hc t, h.answeredAs_raise]⟩
    · exact ⟨_, exec_keyexp_of_ok hc s, by rw [exec_keyexp_of_ok hc t, h.answeredAs_keyExpanded hdin]⟩
  | rdrk round =>
    cases he : s.roundError round with
    | some e =>
      exact ⟨_, exec_rdrk_of_roundError he, by
        rw [exec_rdrk_of_roundError ((h.roundError round).trans he), h.answeredAs_raise]⟩
    | none =>
      obtain ⟨hv, hr⟩ := (s.roundError_eq_none_iff round).mp he
      obtain ⟨hv', hr'⟩ := (t.roundError_eq_none_iff round).mp ((h.roundError round).trans he)
      exact ⟨_, exec_rdrk_of_le_nr hv hr, by rw [exec_rdrk_of_le_nr hv' hr', h.answeredAs_respond, h.roundKeyBytes]⟩
  | addroundkey round =>
    cases he : s.roundError round with
    | some e =>
      exact ⟨_, exec_addroundkey_of_roundError he, by
        rw [exec_addroundkey_of_roundError ((h.roundError round).trans he), h.answeredAs_raise]⟩
    | none =>
      obtain ⟨hv, hr⟩ := (s.roundError_eq_none_iff round).mp he
      have happlies := State.applies_addroundkey hv hr
      exact ⟨_, happlies s s.sameKey_refl, by rw [happlies t h.2, h.answeredAs_setS_respond, h.1]⟩
  | gfmul =>
    refine ⟨_, exec_gfmul s, ?_⟩
    rw [exec_gfmul t, h.answeredAs_respond, hdin 0 (by decide), hdin 1 (by decide)]
  | ldstate =>
    refine ⟨_, exec_ldstate s, ?_⟩
    rw [exec_ldstate t, h.answeredAs_setS_respond, dinBlock_congr hdin]
  | rdstate =>
    refine ⟨_, exec_rdstate s, ?_⟩
    rw [exec_rdstate t, h.answeredAs_respond, h.1]
  | enc => exact h.exec_of_isBlockCommand isBlockCommand_enc exec_enc_of_not_kvalid hdin
  | dec => exact h.exec_of_isBlockCommand isBlockCommand_dec exec_dec_of_not_kvalid hdin
  | subbytes => exact h.exec_of_writes exec_subbytes
  | invsubbytes => exact h.exec_of_writes exec_invsubbytes
  | shiftrows => exact h.exec_of_writes exec_shiftrows
  | invshiftrows => exact h.exec_of_writes exec_invshiftrows
  | mixcolumns => exact h.exec_of_writes exec_mixcolumns
  | invmixcolumns => exact h.exec_of_writes exec_invmixcolumns

/-- At the port the data is the same, so only the architectural state has to be (R36, R58). -/
theorem State.SameArch.perform_congr (w : BitVec 16) (d : BitVec 256) :
    ∃ u, perform w d s = .next u ∧ perform w d t = .next ((t.sample (Pins.command w d)).answeredAs u) := by
  have hsample : (s.sample (Pins.command w d)).SameArch (t.sample (Pins.command w d)) := h
  cases hw : decode w with
  | ok i =>
    rw [perform_of_decode_eq_ok hw, perform_of_decode_eq_ok hw]
    exact hsample.exec_congr fun _ _ => rfl
  | error e =>
    simp only [perform, hw]
    exact ⟨_, rfl, congrArg _ (hsample.answeredAs_raise _).symm⟩

end

section

variable {s u : State} (h : s.SameRest u)

include h

/-- A command's answer from a state whose `DIN` alone differs is its answer with that `DIN` (R85). -/
theorem State.SameRest.answeredAs_withDin (d : BitVec 256) : State.answeredAs { s with din := d } u = { u with din := d } := by
  obtain ⟨hphase, hrnd, hki, hword, -, hhost, hdelivered⟩ := h
  simp only [State.answeredAs, ← hphase, ← hrnd, ← hki, ← hword, ← hhost, ← hdelivered]

/-- The same of a state whose coming rows of pins alone differ. -/
theorem State.SameRest.answeredAs_withHost (rows : List Pins) : (s.withHost rows).answeredAs u = u.withHost rows := by
  obtain ⟨hphase, hrnd, hki, hword, hdin, -, hdelivered⟩ := h
  simp only [State.answeredAs, State.withHost, ← hphase, ← hrnd, ← hki, ← hword, ← hdin, ← hdelivered]

end

theorem State.sameArch_refl (s : State) : s.SameArch s := ⟨rfl, rfl, rfl, rfl⟩

/-- A word performed changes at most the sampled command, the architectural state and the response (R36). -/
theorem perform_sameRest {w : BitVec 16} {d : BitVec 256} {s u : State} (h : perform w d s = .next u) :
    u.rspValid = true ∧ (s.sample (Pins.command w d)).SameRest u := by
  obtain ⟨v, hv, hvalid, -, -, hrest⟩ := perform_answered w d s
  obtain rfl := Host.Outcome.next.inj (hv.symm.trans h)
  exact ⟨hvalid, hrest⟩

/-- What a word does does not depend on the host's coming rows. -/
theorem perform_withHost {w : BitVec 16} {d : BitVec 256} {s u : State} (h : perform w d s = .next u) (rows : List Pins) :
    perform w d (s.withHost rows) = .next (u.withHost rows) := by
  have hsame : s.SameArch (s.withHost rows) := s.sameArch_refl
  obtain ⟨v, hv, hrows⟩ := hsame.perform_congr w d
  obtain rfl := Host.Outcome.next.inj (hv.symm.trans h)
  exact hrows.trans (congrArg _ ((perform_sameRest h).2.answeredAs_withHost rows))

end Sys2Proof.Machine

namespace Sys2Proof

open Machine

/-- Settles O45: the command does the same on the same architectural state, and leaves `DIN` as it was. -/
theorem unusedDataIsIgnored : Obligations.UnusedDataIsIgnored := by
  intro s i d hdin
  have hsame : s.SameArch { s with din := d } := s.sameArch_refl
  obtain ⟨u, hu, hu'⟩ := hsame.exec_congr hdin
  obtain ⟨v, hv, -, -, -, hrest⟩ := exec_answered i s
  obtain rfl := Host.Outcome.next.inj (hu.symm.trans hv)
  exact ⟨u, hu, hu'.trans (congrArg _ (hrest.answeredAs_withDin d))⟩

end Sys2Proof
end

section
/-! Runs of commands at the port: each presented and its response taken (spec/10_state.md R36; spec/20_memory.md R58;
spec/60_exceptions.md R246; spec/70_reset_and_hazards.md R298). -/

namespace Sys2Proof.Machine

theorem run_zero (s : State) : Host.Core.run core 0 s = .next s := rfl

/-- A run takes its first step and goes on from there. -/
theorem run_succ_of_step {s t : State} (h : step s = .next t) (n : Nat) :
    Host.Core.run core (n + 1) s = Host.Core.run core n t := by
  have hcore : core.step s = .next t := h
  simp only [Host.Core.run, hcore]

/-- A ready core whose word is performed presents the response with the sequencer idle. -/
theorem perform_presents {w : BitVec 16} {d : BitVec 256} {s u : State} (hready : s.cmdReady = true)
    (h : perform w d s = .next u) : u.rspValid = true ∧ u.inFlight = false := by
  obtain ⟨hvalid, hphase, -, hki, -⟩ := perform_sameRest h
  obtain ⟨hidle, hzero⟩ := s.inFlight_eq_false_iff.mp (s.cmdReady_iff.mp hready).2
  exact ⟨hvalid, u.inFlight_eq_false_iff.mpr ⟨hphase.trans hidle, hki.trans hzero⟩⟩

section

variable {w : BitVec 16} {d : BitVec 256} {s u : State} (hready : s.cmdReady = true) (h : perform w d s = .next u)

include hready h

/-- The step that accepts a command before its response is taken. -/
theorem step_command (rest : List Pins) :
    step (s.withHost (Pins.command w d :: rest)) = .next (u.withHost rest) :=
  (step_of_accept (s := s.withHost _) rfl rfl hready rfl).trans (perform_withHost h rest)

/-- The step in which the response is taken. -/
theorem step_take (rest : List Pins) : step (u.withHost (Pins.take :: rest)) = .next (u.withHost rest).deliver := by
  obtain ⟨hvalid, hidle⟩ := perform_presents hready h
  exact step_of_deliver (s := u.withHost _) rfl rfl hidle hvalid rfl

/-- One command takes two steps of a run: it is accepted and answered, and its response is taken (R36). -/
theorem run_command (rest : List Pins) (n : Nat) :
    Host.Core.run core (n + 2) (s.withHost (Pins.command w d :: Pins.take :: rest)) =
      Host.Core.run core n (u.withHost rest).deliver := by
  rw [run_succ_of_step (step_command hready h _), run_succ_of_step (step_take hready h rest)]

/-- With the response taken the core is ready again (R36). -/
theorem deliver_cmdReady : u.deliver.cmdReady = true :=
  u.deliver.cmdReady_iff.mpr ⟨rfl, (perform_presents hready h).2⟩

end

/-- From the same architectural state a list of commands gets the same responses (R58). -/
theorem State.SameArch.responsesOf_eq {s t : State} (h : s.SameArch t) (cs : List (BitVec 16 × BitVec 256)) :
    responsesOf cs t = responsesOf cs s := by
  induction cs generalizing s t with
  | nil => rfl
  | cons c cs ih =>
    obtain ⟨u, hu, hu'⟩ := h.perform_congr c.1 c.2
    have hsame : u.SameArch ((t.sample (Pins.command c.1 c.2)).answeredAs u) := u.sameArch_refl
    simp only [responsesOf, hu, hu', ih hsame]
    rfl

/-- And ends in the same architectural state (R58). -/
theorem State.SameArch.performAll_congr {s t v : State} (h : s.SameArch t) {cs : List (BitVec 16 × BitVec 256)}
    (hv : performAll cs t = .next v) : ∃ u, performAll cs s = .next u ∧ u.SameArch v := by
  induction cs generalizing s t with
  | nil =>
    obtain rfl := Host.Outcome.next.inj hv
    exact ⟨s, rfl, h⟩
  | cons c cs ih =>
    obtain ⟨u, hu, hu'⟩ := h.perform_congr c.1 c.2
    have hsame : u.SameArch ((t.sample (Pins.command c.1 c.2)).answeredAs u) := u.sameArch_refl
    simp only [performAll, hu, hu'] at hv ⊢
    exact ih hsame hv

/-- A command that fails, its response taken, leaves the core as it was but for `DIN` and the zero data (R246). -/
theorem deliver_of_error {w : BitVec 16} {d : BitVec 256} {s t : State} (hvalid : s.rspValid = false) (htrace : s.NoErrorTrace)
    (hans : (s.sample (Pins.command w d)).AnsweredBy t) (herr : t.rspErr ≠ .ok) :
    (t.withHost []).deliver =
      { s with host := [], din := d, rspData := 0, delivered := s.delivered ++ [⟨t.rspErr, 0⟩] } := by
  obtain ⟨-, -, hfailed, hphase, hrnd, hki, -, hdin, -, hdelivered⟩ := hans
  obtain ⟨⟨hS, hW, hksel, hkvalid⟩, hdata⟩ := hfailed herr
  obtain ⟨hcode, hword⟩ := htrace hvalid
  simp [State.deliver, State.withHost, State.response, hS, hW, hksel, hkvalid, hdata, hphase, hrnd, hki, hdin, hdelivered,
    hvalid, hcode, hword, Pins.command]

end Sys2Proof.Machine

namespace Sys2Proof

open Machine

/-- Settles O49: by induction on the list; each command finds the architectural state the one before it left. -/
theorem runAnswersEveryCommandInOrder : Obligations.RunAnswersEveryCommandInOrder := by
  intro cs
  induction cs with
  | nil =>
    intro s hready
    exact ⟨s.withHost [], s, run_zero _, hready, rfl, (List.append_nil _).symm, rfl, rfl, s.sameArch_refl⟩
  | cons c cs ih =>
    intro s hready
    obtain ⟨u, hu, -⟩ := perform_answered c.1 c.2 s
    obtain ⟨-, -, -, -, -, -, -, hdelivered⟩ := perform_sameRest hu
    have hsame : u.SameArch u.deliver := u.sameArch_refl
    obtain ⟨t, v, hrun, htready, hthost, htdelivered, hlen, hv, hvt⟩ := ih u.deliver (deliver_cmdReady hready hu)
    obtain ⟨v', hv', hv'v⟩ := hsame.performAll_congr hv
    have hresponses : responsesOf (c :: cs) s = u.response :: responsesOf cs u.deliver := by
      simp only [responsesOf, hu, hsame.responsesOf_eq]
    refine ⟨t, v', (run_command hready hu (presentAll cs) (2 * cs.length)).trans hrun, htready, hthost, ?_, ?_, ?_, ?_⟩
    · rw [htdelivered, State.deliver_delivered, hdelivered, State.sample_delivered, hresponses, List.append_assoc,
        List.singleton_append]
    · rw [hresponses, List.length_cons, hlen, List.length_cons]
    · simp only [performAll, hu, hv']
    · exact ⟨hvt.1.trans hv'v.1, hv'v.2.trans hvt.2⟩

/-- Settles O56: delivery clears the code and the word; a failing command writes nothing else that outlives it. -/
theorem deliveredErrorLeavesNoTrace : Obligations.DeliveredErrorLeavesNoTrace := by
  refine ⟨fun s p rest hhost hrst htake hvalid hidle => ?taken, fun w d s hready htrace => ?failed⟩
  case taken => exact ⟨_, step_of_deliver hhost hrst hidle hvalid htake, rfl, rfl, fun _ => ⟨rfl, rfl⟩⟩
  case failed =>
    obtain ⟨t, ht, hans⟩ := perform_answered w d s
    exact ⟨t, _, ht, run_command hready ht [] 0, deliver_of_error (s.cmdReady_iff.mp hready).1 htrace hans⟩

end Sys2Proof
end

section
/-! Which commands work straight after reset (spec/70_reset_and_hazards.md R283, R284). -/

namespace Sys2Proof.Machine

/-- The commands that need a key fail without one, whatever their round (R248). -/
theorem exec_of_not_kvalid {i : Instr} (hi : i ∈ [.rdrk 0, .addroundkey 0, .enc, .dec]) {s : State} (hv : s.kvalid = false) :
    exec i s = .next (s.raise .noKey) := by
  have hround : s.roundError 0 = some .noKey := by simp [State.roundError, hv]
  simp only [List.mem_cons, List.not_mem_nil, or_false] at hi
  rcases hi with rfl | rfl | rfl | rfl
  · exact exec_rdrk_of_roundError hround
  · exact exec_addroundkey_of_roundError hround
  · exact exec_enc_of_not_kvalid hv
  · exact exec_dec_of_not_kvalid hv

theorem wellFormed_keylessCommands : ∀ i ∈ keylessCommands, i.wellFormed = true := by decide

theorem wellFormed_keyCommands : ∀ i ∈ [.rdrk 0, .addroundkey 0, .enc, .dec], Instr.wellFormed i = true := by decide

end Sys2Proof.Machine

namespace Sys2Proof

open Machine

/-- Settles O14: after reset `KVALID` is 0; the nine commands ask for no key, the four others do. -/
theorem straightAfterReset : Obligations.StraightAfterReset := by
  refine fun d => ⟨fun i hi => ?keyless, fun i hi => ?key⟩
  case keyless =>
    obtain ⟨m, b, h⟩ := exec_of_mem_keylessCommands hi (State.reset.sample (Pins.command (encode i) d))
    exact ⟨_, (perform_encode (wellFormed_keylessCommands i hi) d _).trans h, rfl⟩
  case key => exact ⟨_, (perform_encode (wellFormed_keyCommands i hi) d _).trans (exec_of_not_kvalid hi rfl), rfl⟩

end Sys2Proof
end

section
/-! The hidden sequencer runs `ENC` and `DEC` stage by stage (spec/44_cipher_engine.md R203). -/

namespace Sys2Proof.Machine

/-- Past the host's rows a command under way goes on with no pin driven. -/
theorem step_sequencer {s : State} (hhost : s.host = []) (hbusy : s.inFlight = true) : step s = .next s.advance := by
  have hrst : s.pins.rst = false := by simp [State.pins, hhost, Pins.quiet]
  have hnext : s.nextInput = s := by rw [State.nextInput, hhost, List.tail_nil, ← hhost]
  rw [step_of_inFlight hrst hbusy, hnext]

/-- A run along a chain of states, each the step of the one before. -/
theorem run_chain {f : Nat → State} {n : Nat} (h : ∀ j < n, step (f j) = .next (f (j + 1))) (m : Nat) :
    Host.Core.run core (n + m) (f 0) = Host.Core.run core m (f n) := by
  induction n generalizing f with
  | zero => rw [Nat.zero_add]
  | succ n ih =>
    rw [Nat.succ_add, run_succ_of_step (h 0 (Nat.succ_pos n))]
    exact ih (f := fun j => f (j + 1)) fun j hj => h (j + 1) (Nat.succ_lt_succ hj)

/-- A step of the cipher engine while the sequencer is in a stage (R203). -/
theorem step_cipherStage {s : State} (hhost : s.host = []) (hphase : s.phase ≠ .idle) : step s = .next s.cipherStage := by
  have hbusy : s.inFlight = true := by simp [State.inFlight, hphase]
  rw [step_sequencer hhost hbusy, State.advance, if_neg hphase]

/-! ## The stages of the engine, case by case (R203) -/

section

variable {s : State} (hdec : s.decrypting = false)

include hdec

theorem State.cipherStage_initial_enc (hphase : s.phase = .initial) :
    s.cipherStage = { s with S := addRoundKey (s.roundKey s.rnd.toNat) s.S, phase := .main, rnd := s.rnd + 1 } := by
  simp [State.cipherStage, hphase, hdec]

theorem State.cipherStage_main_enc (hphase : s.phase = .main) :
    s.cipherStage = { s with
      S := mainStage (s.roundKey s.rnd.toNat) s.S
      phase := if s.rnd.toNat + 1 = s.ksel.nr then .final else .main
      rnd := s.rnd + 1 } := by
  simp [State.cipherStage, hphase, hdec]

theorem State.cipherStage_final_enc (hphase : s.phase = .final) :
    s.cipherStage = State.finishBlock { s with phase := .idle, rnd := 0 } (finalStage (s.roundKey s.rnd.toNat) s.S) := by
  simp [State.cipherStage, hphase, hdec]

end

section

variable {s : State} (hdec : s.decrypting = true)

include hdec

theorem State.cipherStage_initial_dec (hphase : s.phase = .initial) :
    s.cipherStage = { s with S := invFinalStage (s.roundKey s.rnd.toNat) s.S, phase := .main, rnd := s.rnd - 1 } := by
  simp [State.cipherStage, hphase, hdec]

theorem State.cipherStage_main_dec (hphase : s.phase = .main) :
    s.cipherStage = { s with
      S := invMainStage (s.roundKey s.rnd.toNat) s.S
      phase := if s.rnd.toNat = 1 then .final else .main
      rnd := s.rnd - 1 } := by
  simp [State.cipherStage, hphase, hdec]

theorem State.cipherStage_final_dec (hphase : s.phase = .final) :
    s.cipherStage = State.finishBlock { s with phase := .idle, rnd := 0 } (addRoundKey (s.roundKey s.rnd.toNat) s.S) := by
  simp [State.cipherStage, hphase, hdec]

end

/-! ## The run -/

/-- The engine after `j + 1` stages: the State is `m j` and the next stage takes round key `round j` (R203, log entry 6). -/
def State.midCipher (s : State) (m : Nat → Mat4) (round : Nat → Nat) (j : Nat) : State :=
  { s with S := m j, phase := if j + 1 = s.ksel.nr then .final else .main, rnd := BitVec.ofNat 4 (round j) }

theorem State.midCipher_phase_of_lt {s : State} {j : Nat} (h : j + 1 < s.ksel.nr) (m : Nat → Mat4) (round : Nat → Nat) :
    (s.midCipher m round j).phase = .main :=
  if_neg h.ne

theorem State.midCipher_phase_of_eq {s : State} {j : Nat} (h : j + 1 = s.ksel.nr) (m : Nat → Mat4) (round : Nat → Nat) :
    (s.midCipher m round j).phase = .final :=
  if_pos h

/-- The round number is within its register (R32). -/
theorem State.midCipher_rnd_toNat (s : State) (m : Nat → Mat4) (round : Nat → Nat) {j : Nat} (h : round j ≤ s.ksel.nr) :
    (s.midCipher m round j).rnd.toNat = round j := by
  have := s.ksel.nr_le
  exact Nat.mod_eq_of_lt (by omega)

/-- The run of the engine from its three kinds of stage (R203). -/
theorem run_cipher {s : State} (hhost : s.host = []) {m : Nat → Mat4} {round : Nat → Nat} {t : State}
    (hinitial : s.startCipher.cipherStage = s.midCipher m round 0)
    (hmain : ∀ j, j + 1 < s.ksel.nr → (s.midCipher m round j).cipherStage = s.midCipher m round (j + 1))
    (hfinal : ∀ j, j + 1 = s.ksel.nr → (s.midCipher m round j).cipherStage = t) :
    Host.Core.run core (s.ksel.nr + 1) s.startCipher = .next t := by
  have hstart : step s.startCipher = .next (s.midCipher m round 0) :=
    (step_cipherStage (s := s.startCipher) hhost Phase.noConfusion).trans (congrArg _ hinitial)
  have hmid : ∀ j, j + 1 < s.ksel.nr → step (s.midCipher m round j) = .next (s.midCipher m round (j + 1)) := fun j hj =>
    (step_cipherStage (s := s.midCipher m round j) hhost (by simp [State.midCipher_phase_of_lt hj])).trans
      (congrArg _ (hmain j hj))
  have hend : ∀ j, j + 1 = s.ksel.nr → step (s.midCipher m round j) = .next t := fun j hj =>
    (step_cipherStage (s := s.midCipher m round j) hhost (by simp [State.midCipher_phase_of_eq hj])).trans
      (congrArg _ (hfinal j hj))
  obtain ⟨n, hn⟩ := Nat.exists_eq_add_of_le' s.ksel.nr_pos
  rw [run_succ_of_step hstart, hn, run_chain fun j hj => hmid j (by omega), run_succ_of_step (hend n hn.symm), run_zero]

/-- After the last stage the sequencer is idle as it was before the command, and the result is written over `S` (R32, R203). -/
theorem State.finishBlock_midCipher {s : State} (h : s.SequencerIdle) (m : Nat → Mat4) (round : Nat → Nat) (j : Nat)
    (result : Mat4) :
    State.finishBlock { s.midCipher m round j with phase := .idle, rnd := 0 } result = s.finishBlock result := by
  obtain ⟨hphase, hrnd, -⟩ := h
  calc
    _ = State.finishBlock { s with phase := .idle, rnd := 0 } result := rfl
    _ = s.finishBlock result := by rw [← hphase, ← hrnd]

/-- The States of `ENC`, stage by stage (R196). -/
def State.encStages (s : State) : Nat → Mat4 := encryptStage s.roundKey (dinBlock s.din)

/-- The States of `DEC`, stage by stage (R200). -/
def State.decStages (s : State) : Nat → Mat4 := invStagesDone s.roundKey s.ksel.nr (dinBlock s.din)

/-- The round key `DEC` takes after `j + 1` stages (R200). -/
def State.decRound (s : State) (j : Nat) : Nat := s.ksel.nr - (j + 1)

section

variable {s : State} (hdec : s.decrypting = false)

include hdec

/-- INITIAL of `ENC` takes round key 0 (R203). -/
theorem startCipher_cipherStage_enc :
    s.startCipher.cipherStage = s.midCipher s.encStages Nat.succ 0 := by
  have hnr : 0 + 1 ≠ s.ksel.nr := by cases s.ksel <;> decide
  rw [State.cipherStage_initial_enc (s := s.startCipher) hdec rfl, State.midCipher, if_neg hnr]
  simp only [State.startCipher, hdec]
  rfl

/-- A stage of MAIN of `ENC` (R203). -/
theorem midCipher_mainStage_enc {j : Nat} (hj : j + 1 < s.ksel.nr) :
    (s.midCipher s.encStages Nat.succ j).cipherStage =
      s.midCipher s.encStages Nat.succ (j + 1) := by
  have hnext : BitVec.ofNat 4 j.succ + 1 = BitVec.ofNat 4 (j + 1).succ := (BitVec.ofNat_add _ _).symm
  rw [State.cipherStage_main_enc (s := s.midCipher _ _ j) hdec (State.midCipher_phase_of_lt hj _ _),
    State.midCipher_rnd_toNat _ _ Nat.succ hj.le]
  simp only [State.midCipher, hnext]
  rfl

/-- FINAL of `ENC` takes round key `Nr` and gives the response (R203). -/
theorem midCipher_finalStage_enc (hidle : s.SequencerIdle) {j : Nat} (hj : j + 1 = s.ksel.nr) :
    (s.midCipher s.encStages Nat.succ j).cipherStage =
      s.finishBlock (encryptBlock s.roundKey s.ksel.nr (dinBlock s.din)) := by
  rw [State.cipherStage_final_enc (s := s.midCipher _ _ j) hdec (State.midCipher_phase_of_eq hj _ _),
    State.midCipher_rnd_toNat _ _ Nat.succ hj.le,
    State.finishBlock_midCipher hidle, encryptBlock, ← hj]
  rfl

end

section

variable {s : State} (hdec : s.decrypting = true)

include hdec

/-- INITIAL of `DEC` takes round key `Nr` (R203). -/
theorem startCipher_cipherStage_dec :
    s.startCipher.cipherStage =
      s.midCipher s.decStages s.decRound 0 := by
  have hnr : 0 + 1 ≠ s.ksel.nr := by cases s.ksel <;> decide
  have hround : (BitVec.ofNat 4 s.ksel.nr).toNat = s.ksel.nr := by cases s.ksel <;> rfl
  have hnext : BitVec.ofNat 4 s.ksel.nr - 1 = BitVec.ofNat 4 (s.ksel.nr - 1) := by cases s.ksel <;> rfl
  rw [State.cipherStage_initial_dec (s := s.startCipher) hdec rfl, State.midCipher, if_neg hnr]
  simp only [State.startCipher, hdec, if_true, hround, hnext]
  rfl

/-- A stage of MAIN of `DEC` (R203). -/
theorem midCipher_mainStage_dec {j : Nat} (hj : j + 1 < s.ksel.nr) :
    (s.midCipher s.decStages s.decRound j).cipherStage =
      s.midCipher s.decStages s.decRound (j + 1) := by
  have hround : s.decRound j = s.decRound (j + 1) + 1 := by unfold State.decRound; omega
  have hnext : BitVec.ofNat 4 (s.decRound j) - 1 = BitVec.ofNat 4 (s.decRound (j + 1)) := by
    rw [hround, BitVec.ofNat_add]
    exact BitVec.add_sub_cancel _ _
  have hlast : s.decRound j = 1 ↔ j + 1 + 1 = s.ksel.nr := by unfold State.decRound; omega
  rw [State.cipherStage_main_dec (s := s.midCipher _ _ j) hdec (State.midCipher_phase_of_lt hj _ _),
    State.midCipher_rnd_toNat _ _ s.decRound (Nat.sub_le _ _)]
  simp only [State.midCipher, hnext, hlast]
  rfl

/-- FINAL of `DEC` takes round key 0 and gives the response (R203). -/
theorem midCipher_finalStage_dec (hidle : s.SequencerIdle) {j : Nat} (hj : j + 1 = s.ksel.nr) :
    (s.midCipher s.decStages s.decRound j).cipherStage =
      s.finishBlock (decryptBlock s.roundKey s.ksel.nr (dinBlock s.din)) := by
  have hzero : s.decRound j = 0 := by unfold State.decRound; omega
  have hdone : s.ksel.nr - (0 + 1) = j := by omega
  rw [State.cipherStage_final_dec (s := s.midCipher _ _ j) hdec (State.midCipher_phase_of_eq hj _ _),
    State.midCipher_rnd_toNat _ _ s.decRound (Nat.sub_le _ _), hzero,
    State.finishBlock_midCipher hidle, decryptBlock_eq_of_lt _ _ s.ksel.nr_pos, decryptStage, hdone]
  rfl

end

end Sys2Proof.Machine

namespace Sys2Proof

open Machine

/-- Settles O50: the State after each stage is the pipeline's State after that round, and the last stage leaves the sequencer
idle. -/
theorem sequencerRunsTheCipher : Obligations.SequencerRunsTheCipher := by
  intro s i hi hdecode hidle hv hhost
  rcases hi with rfl | rfl
  · have hdec : s.decrypting = false := by simp [State.decrypting, hdecode]
    rw [exec_enc_of_kvalid hv]
    exact run_cipher hhost (startCipher_cipherStage_enc hdec) (fun _ => midCipher_mainStage_enc hdec)
      fun _ => midCipher_finalStage_enc hdec hidle
  · have hdec : s.decrypting = true := by simp [State.decrypting, hdecode]
    rw [exec_dec_of_kvalid hv]
    exact run_cipher hhost (startCipher_cipherStage_dec hdec) (fun _ => midCipher_mainStage_dec hdec)
      fun _ => midCipher_finalStage_dec hdec hidle

end Sys2Proof
end

section
/-! The hidden sequencer runs `KEYEXP` word by word (spec/42_key_schedule.md R146, R147 (e)). -/

namespace Sys2Proof

theorem KeySize.nk_lt_words (k : KeySize) : k.nk < k.words := by cases k <;> decide

/-- `W` with the first `n` words of the ExpandedKey produced and the rest zero (log entry 7); irreducible for the reason
`keyMemory` is. -/
@[irreducible] def producedWords (k : KeySize) (key : Nat → Word) (n : Nat) : Vector Word 60 :=
  Vector.ofFn fun i => if i.val < n then (expand k key).getD i.val Word.zero else Word.zero

theorem producedWords_getElem (k : KeySize) (key : Nat → Word) (n : Nat) {i : Nat} (h : i < 60) :
    (producedWords k key n)[i] = if i < n then (expand k key).getD i Word.zero else Word.zero := by
  simp [producedWords]

/-- At the start these words are the key itself (R146, first loop). -/
theorem producedWords_nk (k : KeySize) (key : Nat → Word) :
    producedWords k key k.nk = Vector.ofFn fun i => if i.val < k.nk then key i.val else Word.zero := by
  apply Vector.ext
  intro i hi
  rw [producedWords_getElem, Vector.getElem_ofFn]
  split
  next h => exact expand_key k key h
  next => rfl

/-- With all words produced this is what `KEYEXP` gives `W` (R149). -/
theorem producedWords_words (k : KeySize) (key : Nat → Word) : producedWords k key k.words = keyMemory k key := by
  apply Vector.ext
  intro i hi
  rw [producedWords_getElem, keyMemory_getElem]
  split
  next => rfl
  next h => exact (expand_tail k key (Nat.not_lt.mp h)).symm

/-- One more word produced. -/
theorem producedWords_succ (k : KeySize) (key : Nat → Word) (n : Nat) :
    (producedWords k key n).setIfInBounds n ((expand k key).getD n Word.zero) = producedWords k key (n + 1) := by
  apply Vector.ext
  intro i hi
  rw [Vector.getElem_setIfInBounds, producedWords_getElem, producedWords_getElem]
  rcases lt_trichotomy i n with h | rfl | h
  · simp [h, h.ne', Nat.lt_succ_of_lt h]
  · simp
  · simp [h.ne, Nat.not_lt.mpr h.le, show ¬ i < n + 1 by omega]

end Sys2Proof

namespace Sys2Proof.Machine

/-- Before the last word the sequencer counts on (R147 (e)). -/
theorem State.keyStage_of_ne {s : State} {k : KeySize} (h : s.ki.toNat + 1 ≠ k.words) :
    s.keyStage k = { s with W := (s.keyStage k).W, ki := s.ki + 1 } := by
  simp only [State.keyStage, if_neg h]

/-- After the last word the key is loaded and the response given (R149). -/
theorem State.keyStage_of_eq {s : State} {k : KeySize} (h : s.ki.toNat + 1 = k.words) :
    s.keyStage k = State.respond { s with W := (s.keyStage k).W, ksel := k, kvalid := true, ki := 0 } [] := by
  simp only [State.keyStage, if_pos h, State.respond_W]

/-- The sequencer before word `n`: the words below `n` are in `W` (R147 (e), log entry 7). -/
def State.midKey (s : State) (k : KeySize) (n : Nat) : State :=
  { s with W := producedWords k (dinKeyWord s.din) n, ki := BitVec.ofNat 6 n }

theorem State.startKey_eq_midKey (s : State) (k : KeySize) : s.startKey k = s.midKey k k.nk := by
  rw [State.midKey, producedWords_nk]
  rfl

/-- The words below `n` are read as the schedule reads them. -/
theorem State.midKey_word (s : State) (k : KeySize) {i n : Nat} (h : i < n) (hn : n ≤ 60) :
    (s.midKey k n).word i = (expand k (dinKeyWord s.din)).getD i Word.zero := by
  have hi : i < 60 := by omega
  rw [State.word, State.midKey, Vector.getElem?_eq_getElem hi, Option.getD_some, producedWords_getElem _ _ _ hi, if_pos h]

section

variable {s : State} {k : KeySize} {n : Nat} (hn : k.nk ≤ n) (hwords : n < k.words)

include hn hwords

theorem State.midKey_ki_toNat (s : State) : (s.midKey k n).ki.toNat = n := by
  have := k.words_le
  exact Nat.mod_eq_of_lt (by omega)

/-- The step before word `n` writes word `n` of the ExpandedKey (R146, second loop). -/
theorem State.midKey_keyStage_W (s : State) :
    ((s.midKey k n).keyStage k).W = producedWords k (dinKeyWord s.din) (n + 1) := by
  have hle := k.words_le
  have hpos := k.nk_pos
  rw [State.keyStage_W, State.midKey_ki_toNat hn hwords, s.midKey_word k (by omega) (by omega),
    s.midKey_word k (by omega) (by omega), ← expand_step k _ hn hwords, ← producedWords_succ]
  rfl

/-- A step of the run: with a `KEYEXP` of size `k` in the core the sequencer performs its stage (R32). -/
theorem State.midKey_step (hidle : s.SequencerIdle) (hhost : s.host = []) (hlatched : s.latchedKeySize = some k) :
    step (s.midKey k n) = .next ((s.midKey k n).keyStage k) := by
  have hpos := k.nk_pos
  have hki := State.midKey_ki_toNat hn hwords s
  have hne : (s.midKey k n).ki ≠ 0 := fun h => by
    rw [h] at hki
    exact absurd hki (by simp; omega)
  have hbusy : (s.midKey k n).inFlight = true := Bool.or_eq_true_iff.mpr (.inr (bne_iff_ne.mpr hne))
  have hphase : (s.midKey k n).phase = .idle := hidle.1
  have hsize : (s.midKey k n).latchedKeySize = some k := hlatched
  rw [step_sequencer (s := s.midKey k n) hhost hbusy, State.advance, if_pos hphase, hsize]

theorem State.midKey_keyStage_of_ne (s : State) (h : n + 1 ≠ k.words) : (s.midKey k n).keyStage k = s.midKey k (n + 1) := by
  have hki := State.midKey_ki_toNat hn hwords s
  have hnext : BitVec.ofNat 6 n + 1 = BitVec.ofNat 6 (n + 1) := (BitVec.ofNat_add _ _).symm
  rw [State.keyStage_of_ne (by rw [hki]; exact h), State.midKey_keyStage_W hn hwords]
  simp only [State.midKey, hnext]

/-- The last word leaves exactly the state of `KEYEXP` (R149). -/
theorem State.midKey_keyStage_of_eq (hidle : s.SequencerIdle) (h : n + 1 = k.words) :
    (s.midKey k n).keyStage k = s.keyExpanded k := by
  have hki := State.midKey_ki_toNat hn hwords s
  obtain ⟨-, -, hzero⟩ := hidle
  rw [State.keyStage_of_eq (by rw [hki]; exact h), State.midKey_keyStage_W hn hwords, h, producedWords_words, ← hzero]
  rfl

end

end Sys2Proof.Machine

namespace Sys2Proof

open Machine

/-- Settles O51: before word `n` the words below `n` are the ExpandedKey's; the last one completes `W` and gives the response.
-/
theorem sequencerRunsTheKeySchedule : Obligations.SequencerRunsTheKeySchedule := by
  intro s k hdecode hidle hhost
  have hlatched : s.latchedKeySize = some k := by simp [State.latchedKeySize, hdecode, keyexpCheck_code, Except.toOption]
  obtain ⟨m, hm⟩ : ∃ m, k.words = k.nk + m + 1 := Nat.exists_eq_add_of_lt k.nk_lt_words
  have hstep : ∀ j ≤ m, step (s.midKey k (k.nk + j)) = .next ((s.midKey k (k.nk + j)).keyStage k) := fun j hj =>
    State.midKey_step (by omega) (by omega) hidle hhost hlatched
  have hchain : ∀ j < m, step (s.midKey k (k.nk + j)) = .next (s.midKey k (k.nk + (j + 1))) := fun j hj =>
    (hstep j hj.le).trans (congrArg _ (s.midKey_keyStage_of_ne (by omega) (by omega) (by omega)))
  have hlast := (hstep m le_rfl).trans (congrArg _ (State.midKey_keyStage_of_eq (by omega) (by omega) hidle hm.symm))
  have hlen : k.words - k.nk = m + 1 := by omega
  rw [exec_keyexp_of_ok (keyexpCheck_code k), State.startKey_eq_midKey, hlen]
  exact (run_chain (f := fun j => s.midKey k (k.nk + j)) hchain 1).trans ((run_succ_of_step hlast 0).trans (run_zero _))

end Sys2Proof
end

section
/-! The host sends commands one by one, and loads a key (spec/45_host_text_layer.md R220, R229). -/

namespace Sys2Proof

/-- The bytes presented are the bytes given, in order (R90). -/
theorem map_dinByte_packDin {b : List Byte} (h : b.length ≤ 32) : (List.range b.length).map (dinByte (packDin b)) = b := by
  refine List.ext_getElem (by simp) fun i hi hib => ?_
  rw [List.getElem_map, List.getElem_range, dinByte_packDin b (by omega), List.getD_eq_getElem _ _ hib]

end Sys2Proof

namespace Sys2Proof.Machine

/-- Sending a command to the ready core: its response is taken, and reported if it is an error (R229). -/
theorem send_of_perform {w : BitVec 16} {d : BitVec 256} {s u : State} (hready : s.cmdReady = true)
    (h : perform w d s = .next u) :
    send w d s = if u.rspErr = .ok then .ok ((u.withHost []).deliver, u.rspData) else .error (.code u.rspErr) := by
  simp only [send, hready, if_true, step_command hready h, step_take hready h, State.withHost_rspErr, State.withHost_rspData]
  rfl

theorem send_of_ok {w : BitVec 16} {d : BitVec 256} {s u : State} (hready : s.cmdReady = true) (h : perform w d s = .next u)
    (hok : u.rspErr = .ok) : send w d s = .ok ((u.withHost []).deliver, u.rspData) :=
  (send_of_perform hready h).trans (if_pos hok)

theorem send_of_error {w : BitVec 16} {d : BitVec 256} {s u : State} (hready : s.cmdReady = true) (h : perform w d s = .next u)
    (herr : u.rspErr ≠ .ok) : send w d s = .error (.code u.rspErr) :=
  (send_of_perform hready h).trans (if_neg herr)

/-- After a command sent the core is ready for the next (R229). -/
theorem withHost_deliver_cmdReady {w : BitVec 16} {d : BitVec 256} {s u : State} (hready : s.cmdReady = true)
    (h : perform w d s = .next u) : (u.withHost []).deliver.cmdReady = true :=
  deliver_cmdReady (u := u) hready h

/-- The bits of a key size (R220). -/
theorem kselOfBits_mul_nk (k : KeySize) : kselOfBits (32 * k.nk) = some k.code := by cases k <;> rfl

theorem kselOfBits_of_not_mem {bits : Nat} (h : bits ∉ [128, 192, 256]) : kselOfBits bits = none := by
  simp only [List.mem_cons, List.not_mem_nil, or_false, not_or] at h
  simp [kselOfBits, h]

theorem exists_keySize_of_mem {bits : Nat} (h : bits ∈ [128, 192, 256]) : ∃ k : KeySize, bits = 32 * k.nk := by
  simp only [List.mem_cons, List.not_mem_nil, or_false] at h
  rcases h with rfl | rfl | rfl
  exacts [⟨.k128, rfl⟩, ⟨.k192, rfl⟩, ⟨.k256, rfl⟩]

/-- With a supported size and a key that fits `klen`, construction is one `KEYEXP` (R220). -/
theorem constructText_eq_send (k : KeySize) {key : List Byte} (hlen : key.length ≤ 63) (s : State) :
    constructText (32 * k.nk) key s = (send (encode (.keyexp k.code key.length)) (packDin key) s).map Prod.fst := by
  simp only [constructText, kselOfBits_mul_nk, if_neg (Nat.not_lt.mpr hlen)]

theorem constructText_of_length_ne {k : KeySize} {key : List Byte} (hlen : key.length ≠ 4 * k.nk) {s : State}
    (hready : s.cmdReady = true) : constructText (32 * k.nk) key s = .error (.code .invalidKeyMaterial) := by
  rcases Nat.lt_or_ge 63 key.length with hlong | hfits
  · simp only [constructText, kselOfBits_mul_nk, if_pos hlong]
  · have hwf : (Instr.keyexp k.code key.length).wellFormed = true := decide_eq_true (by omega)
    have hperform := (perform_encode hwf (packDin key) s).trans (exec_keyexp_of_error (keyexpCheck_of_klen_ne hlen) _)
    rw [constructText_eq_send k hfits, send_of_error hready hperform ErrCode.noConfusion]
    rfl

theorem constructText_of_length_eq {k : KeySize} {key : List Byte} (hlen : key.length = 4 * k.nk) {s : State}
    (hready : s.cmdReady = true) :
    ∃ t, constructText (32 * k.nk) key s = .ok t ∧ t.kvalid = true ∧ t.cipherKey = key ∧ t.S = s.S ∧ t.cmdReady = true := by
  have hnk := k.nk_le
  have hwf : (Instr.keyexp k.code key.length).wellFormed = true := decide_eq_true (by omega)
  have hcheck : keyexpCheck k.code key.length = .ok k := keyexpCheck_eq_ok_iff.mpr ⟨rfl, hlen⟩
  have hperform := (perform_encode hwf (packDin key) s).trans (exec_keyexp_of_ok hcheck _)
  have hsend := send_of_ok hready hperform rfl
  have hkey := State.keyExpanded_cipherKey (s.sample (Pins.command (encode (.keyexp k.code key.length)) (packDin key))) k
  have hbytes := map_dinByte_packDin (b := key) (by omega)
  refine ⟨_, (constructText_eq_send k (by omega) s).trans (congrArg (Except.map Prod.fst) hsend), rfl, ?_, rfl,
    withHost_deliver_cmdReady hready hperform⟩
  rw [hlen] at hbytes
  exact hkey.trans hbytes

end Sys2Proof.Machine

namespace Sys2Proof

open Machine

/-- Settles O55: a size is one of the three or none; then the core's check of the length decides, and the key loaded is the one
presented. -/
theorem constructionChecksTheKey : Obligations.ConstructionChecksTheKey := by
  intro s bits key hready
  refine ⟨fun hbits => ?unsupported, fun hbits hlen => ?mismatch, fun hbits hlen => ?loaded⟩
  case unsupported => simp only [constructText, kselOfBits_of_not_mem hbits]
  case mismatch =>
    obtain ⟨k, rfl⟩ := exists_keySize_of_mem hbits
    exact constructText_of_length_ne (by omega) hready
  case loaded =>
    obtain ⟨k, rfl⟩ := exists_keySize_of_mem hbits
    exact constructText_of_length_eq (by omega) hready

end Sys2Proof
end

section
/-! The host's text layer: hex digits, padding and blocks (spec/45_host_text_layer.md R222 to R226). -/

namespace Sys2Proof.Machine

/-! ## Hex digits -/

theorem hexDigit_mem : ∀ n < 16, hexDigit n ∈ "0123456789abcdef".toList := by decide

theorem hexValue_hexDigit : ∀ n < 16, hexValue (hexDigit n) = some n := by decide

theorem hexValue_isSome_of_mem : ∀ c ∈ "0123456789abcdefABCDEF".toList, (hexValue c).isSome = true :=
  List.all_eq_true.mp (by decide)

/-- A character with a value is one of 103 (R225). -/
theorem toNat_lt_of_hexValue_isSome {c : Char} (h : (hexValue c).isSome = true) : c.toNat < 103 := by
  by_contra hlarge
  have h1 : ¬ (48 ≤ c.toNat ∧ c.toNat ≤ 57) := by omega
  have h2 : ¬ (97 ≤ c.toNat ∧ c.toNat ≤ 102) := by omega
  have h3 : ¬ (65 ≤ c.toNat ∧ c.toNat ≤ 70) := by omega
  simp [hexValue, h1, h2, h3] at h

theorem mem_of_hexValue_ofNat_isSome :
    ∀ n < 103, (hexValue (Char.ofNat n)).isSome = true → Char.ofNat n ∈ "0123456789abcdefABCDEF".toList := by
  decide +kernel

/-- The hex digits are exactly the characters with a value (R225). -/
theorem hexValue_eq_none_iff (c : Char) : hexValue c = none ↔ c ∉ "0123456789abcdefABCDEF".toList := by
  rw [← Option.not_isSome_iff_eq_none, not_iff_not]
  refine ⟨fun h => ?_, hexValue_isSome_of_mem c⟩
  rw [← Char.ofNat_toNat c] at h ⊢
  exact mem_of_hexValue_ofNat_isSome _ (by simpa using toNat_lt_of_hexValue_isSome h) h

/-! ## Hex text -/

@[simp] theorem hexOf_length (bytes : List Byte) : (hexOf bytes).length = 2 * bytes.length := by
  simp [hexOf, Nat.mul_comm]

theorem hexOf_mem {bytes : List Byte} {c : Char} (h : c ∈ hexOf bytes) : c ∈ "0123456789abcdef".toList := by
  obtain ⟨b, -, hc⟩ := List.mem_flatMap.mp h
  have hb := b.isLt
  simp only [List.mem_cons, List.not_mem_nil, or_false] at hc
  rcases hc with rfl | rfl
  · exact hexDigit_mem _ (by omega)
  · exact hexDigit_mem _ (by omega)

/-- Reading the hex digits of bytes gives the bytes back (R222, R224). -/
theorem bytesOfHex_hexOf (bytes : List Byte) : bytesOfHex (hexOf bytes) = some bytes := by
  induction bytes with
  | nil => rfl
  | cons b bs ih =>
    have hb := b.isLt
    have hbyte : BitVec.ofNat 8 (16 * (b.toNat / 16) + b.toNat % 16) = b := by
      rw [Nat.div_add_mod, BitVec.ofNat_toNat, BitVec.setWidth_eq]
    have hcons : hexOf (b :: bs) = hexDigit (b.toNat / 16) :: hexDigit (b.toNat % 16) :: hexOf bs := rfl
    rw [hcons, bytesOfHex, hexValue_hexDigit _ (by omega), hexValue_hexDigit _ (by omega), ih]
    simp only [hbyte]

theorem bytesOfHex_cons_cons_eq_none_iff (a b : Char) (rest : List Char) :
    bytesOfHex (a :: b :: rest) = none ↔ hexValue a = none ∨ hexValue b = none ∨ bytesOfHex rest = none := by
  rw [bytesOfHex]
  cases hexValue a with
  | none => simp
  | some x =>
    cases hexValue b with
    | none => simp
    | some y => cases bytesOfHex rest <;> simp

/-- A hex text of even length has no bytes exactly when one of its characters is no hex digit (R225). -/
theorem bytesOfHex_eq_none_iff : ∀ hex : List Char, hex.length % 2 = 0 →
    (bytesOfHex hex = none ↔ ∃ c ∈ hex, hexValue c = none)
  | [], _ => by simp [bytesOfHex]
  | [_], h => by simp at h
  | a :: b :: rest, h => by
    have heven : rest.length % 2 = 0 := by
      rw [List.length_cons, List.length_cons] at h
      omega
    rw [bytesOfHex_cons_cons_eq_none_iff, bytesOfHex_eq_none_iff rest heven]
    simp

/-! ## Padding and blocks -/

/-- The padded text has 16 bytes for each started block (R222). -/
theorem padSpaces_length (p : List Byte) : (padSpaces p).length = 16 * ((p.length + 15) / 16) := by
  rw [padSpaces, List.length_append, List.length_replicate]
  omega

@[simp] theorem blocksOf_length (n : Nat) (p : List Byte) : (blocksOf n p).length = n := by
  induction n generalizing p with
  | zero => rfl
  | succ n ih => rw [blocksOf, List.length_cons, ih]

/-- Each of the blocks has 16 bytes. -/
theorem length_of_mem_blocksOf {n : Nat} {p : List Byte} (h : 16 * n ≤ p.length) : ∀ b ∈ blocksOf n p, b.length = 16 := by
  induction n generalizing p with
  | zero => simp [blocksOf]
  | succ n ih =>
    refine List.forall_mem_cons.mpr ⟨List.length_take_of_le (by omega), ih ?_⟩
    rw [List.length_drop]
    omega

/-- The blocks in order are the text (R222). -/
theorem flatten_blocksOf {n : Nat} {p : List Byte} (h : p.length = 16 * n) : (blocksOf n p).flatten = p := by
  induction n generalizing p with
  | zero => exact (List.length_eq_zero_iff.mp h).symm
  | succ n ih =>
    rw [blocksOf, List.flatten_cons, ih (by rw [List.length_drop]; omega), List.take_append_drop]

/-- And a text put together from blocks is cut into them (R224). -/
theorem blocksOf_flatten {bs : List (List Byte)} (h : ∀ b ∈ bs, b.length = 16) : blocksOf bs.length bs.flatten = bs := by
  induction bs with
  | nil => rfl
  | cons b bs ih =>
    obtain ⟨hb, hbs⟩ := List.forall_mem_cons.mp h
    rw [List.length_cons, blocksOf, List.flatten_cons, List.take_left' hb, List.drop_left' hb, ih hbs]

theorem length_flatten_blocks {bs : List (List Byte)} (h : ∀ b ∈ bs, b.length = 16) : bs.flatten.length = 16 * bs.length := by
  induction bs with
  | nil => rfl
  | cons b bs ih =>
    obtain ⟨hb, hbs⟩ := List.forall_mem_cons.mp h
    rw [List.flatten_cons, List.length_append, hb, ih hbs, List.length_cons]
    omega

/-! ## Trimming -/

/-- The padding is removed if the set holds the space (R224, R227). -/
theorem trimEnd_padSpaces {ws : List Byte} (h : 0x20 ∈ ws) (p : List Byte) : trimEnd ws (padSpaces p) = trimEnd ws p := by
  rw [trimEnd, padSpaces, List.reverse_append, List.reverse_replicate, List.dropWhile_append_of_pos, trimEnd]
  intro b hb
  rw [List.eq_of_mem_replicate hb]
  simpa using h

/-- A text that does not end in the set is kept (R224). -/
theorem trimEnd_of_getLast? {ws p : List Byte} (h : ∀ b, p.getLast? = some b → b ∉ ws) : trimEnd ws p = p := by
  rcases p.eq_nil_or_concat with rfl | ⟨init, b, rfl⟩
  · rfl
  · have hb : b ∉ ws := h b (by simp)
    simp [trimEnd, hb]

/-- A character of one byte is the byte's character (R226). -/
theorem charOfByte_byteOfChar {c : Char} (h : c.toNat ≤ 255) : charOfByte (byteOfChar c) = c := by
  rw [charOfByte, byteOfChar, BitVec.toNat_ofNat, Nat.mod_eq_of_lt (by omega), Char.ofNat_toNat]

end Sys2Proof.Machine
end

section
/-! The host's calls `encrypt` and `decrypt` (spec/45_host_text_layer.md R222 to R228): their length, their errors, and the
round trip. -/

namespace Sys2Proof.Machine

theorem doutBytes_length (d : BitVec 128) : (doutBytes d).length = 16 := by simp [doutBytes]

/-- The bytes of a response that is a State's block are that block (R53, R193). -/
theorem doutBytes_packDout_block (m : Mat4) : doutBytes (packDout m.block) = m.block :=
  List.map_congr_left fun k hk => by
    have hk := List.mem_range.mp hk
    rw [doutByte_packDout _ hk, m.block_getD hk]

/-- A State's block, presented as data, is that State (R190, R191). -/
theorem dinBlock_packDin_block (m : Mat4) : dinBlock (packDin m.block) = m :=
  Mat4.ext_get fun r c => by
    have hk : r.val + 4 * c.val < 16 := by omega
    rw [dinBlock_get, dinByte_packDin _ (by omega), m.block_getD hk, m.blockByte_index]

/-- The block of the State of 16 bytes is those bytes (R190, R191). -/
theorem block_dinBlock_packDin {b : List Byte} (h : b.length = 16) : (dinBlock (packDin b)).block = b := by
  refine Eq.trans ?_ (map_dinByte_packDin (b := b) (by omega))
  rw [h]
  exact List.map_congr_left fun k hk => Mat4.blockByte_ofBlock _ (List.mem_range.mp hk)

/-! ## Sending blocks -/

theorem sendBlocks_cons_of_ok {w : BitVec 16} {b : List Byte} {s t : State} {d : BitVec 128}
    (h : send w (packDin b) s = .ok (t, d)) (bs : List (List Byte)) :
    sendBlocks w (b :: bs) s = (sendBlocks w bs t).map fun r => (r.1, doutBytes d ++ r.2) := by
  simp only [sendBlocks, h]

theorem sendBlocks_cons_of_error {w : BitVec 16} {b : List Byte} {s : State} {e : TextError}
    (h : send w (packDin b) s = .error e) (bs : List (List Byte)) : sendBlocks w (b :: bs) s = .error e := by
  simp only [sendBlocks, h]

/-- A call that completes gives 16 bytes a block (R228). -/
theorem sendBlocks_length {w : BitVec 16} {bs : List (List Byte)} {s t : State} {r : List Byte}
    (h : sendBlocks w bs s = .ok (t, r)) : r.length = 16 * bs.length := by
  induction bs generalizing s t r with
  | nil =>
    simp only [sendBlocks, Except.ok.injEq, Prod.mk.injEq] at h
    rw [← h.2]
    rfl
  | cons b bs ih =>
    cases hsend : send w (packDin b) s with
    | error e => simp [sendBlocks_cons_of_error hsend] at h
    | ok p =>
      rw [sendBlocks_cons_of_ok hsend] at h
      cases hrest : sendBlocks w bs p.1 with
      | error e => simp [hrest, Except.map] at h
      | ok q =>
        simp only [hrest, Except.map, Except.ok.injEq, Prod.mk.injEq] at h
        rw [← h.2, List.length_append, doutBytes_length, ih hrest, List.length_cons]
        omega

/-- The core never answers `MalformedCiphertext` (R241), so neither does a command sent. -/
theorem send_ne_malformedCiphertext (w : BitVec 16) (d : BitVec 256) (s : State) :
    send w d s ≠ .error (.code .malformedCiphertext) := by
  cases hready : s.cmdReady with
  | false => simp [send, hready]
  | true =>
    obtain ⟨u, hu, -, hcode, -⟩ := perform_answered w d s
    rw [send_of_perform hready hu]
    split
    · simp
    · simpa using hcode

theorem sendBlocks_ne_malformedCiphertext (w : BitVec 16) (bs : List (List Byte)) (s : State) :
    sendBlocks w bs s ≠ .error (.code .malformedCiphertext) := by
  induction bs generalizing s with
  | nil => simp [sendBlocks]
  | cons b bs ih =>
    cases hsend : send w (packDin b) s with
    | error e =>
      have hne := send_ne_malformedCiphertext w (packDin b) s
      rw [hsend] at hne
      rw [sendBlocks_cons_of_error hsend]
      simpa using hne
    | ok p =>
      rw [sendBlocks_cons_of_ok hsend]
      cases hrest : sendBlocks w bs p.1 with
      | error e => simpa [Except.map, hrest] using ih p.1
      | ok q => simp [Except.map]

/-- The bytes a block command makes of 16 bytes (R196, R200). -/
def blockBytes (f : (Nat → Mat4) → Nat → Mat4 → Mat4) (key : Nat → Mat4) (nr : Nat) (b : List Byte) : List Byte :=
  (f key nr (dinBlock (packDin b))).block

theorem length_of_mem_map_blockBytes {f : (Nat → Mat4) → Nat → Mat4 → Mat4} {key : Nat → Mat4} {nr : Nat}
    {bs : List (List Byte)} : ∀ b ∈ bs.map (blockBytes f key nr), b.length = 16 :=
  List.forall_mem_map.mpr fun _ _ => Mat4.block_length _

/-- With a key a block command, sent once for each block, gives the blocks it makes, in order, and keeps the key (R228). -/
theorem IsBlockCommand.sendBlocks {i : Instr} {f : (Nat → Mat4) → Nat → Mat4 → Mat4} (h : IsBlockCommand i f)
    (bs : List (List Byte)) {s : State} (hready : s.cmdReady = true) (hv : s.kvalid = true) :
    ∃ t, Machine.sendBlocks (encode i) bs s = .ok (t, (bs.map (blockBytes f s.roundKey s.ksel.nr)).flatten) ∧
      t.cmdReady = true ∧ s.SameKey t := by
  induction bs generalizing s with
  | nil => exact ⟨s, rfl, hready, s.sameKey_refl⟩
  | cons b bs ih =>
    have hperform := h.perform hv (packDin b)
    have hsend := send_of_ok hready hperform rfl
    obtain ⟨t, ht, htready, htkey⟩ := ih (withHost_deliver_cmdReady hready hperform) hv
    refine ⟨t, ?_, htready, htkey⟩
    rw [sendBlocks_cons_of_ok hsend, ht, List.map_cons, List.flatten_cons, blockBytes, State.finishBlock_rspData,
      doutBytes_packDout_block]
    rfl

/-- Of two block commands of which the second undoes the first, the second gives every block of 16 bytes back (R204). -/
theorem blockBytes_blockBytes {f g : (Nat → Mat4) → Nat → Mat4 → Mat4} (hgf : ∀ key nr m, g key nr (f key nr m) = m)
    (key : Nat → Mat4) (nr : Nat) {b : List Byte} (h : b.length = 16) :
    blockBytes g key nr (blockBytes f key nr b) = b := by
  rw [blockBytes, blockBytes, dinBlock_packDin_block, hgf, block_dinBlock_packDin h]

theorem map_blockBytes_map_blockBytes {f g : (Nat → Mat4) → Nat → Mat4 → Mat4} (hgf : ∀ key nr m, g key nr (f key nr m) = m)
    (key : Nat → Mat4) (nr : Nat) {bs : List (List Byte)} (h : ∀ b ∈ bs, b.length = 16) :
    (bs.map (blockBytes f key nr)).map (blockBytes g key nr) = bs := by
  rw [List.map_map]
  exact (List.map_congr_left fun b hb => blockBytes_blockBytes hgf key nr (h b hb)).trans (List.map_id bs)

/-! ## The calls -/

/-- `encrypt` of a text of one-byte characters (R222). -/
theorem encryptText_eq {m : List Char} (h : ∀ c ∈ m, c.toNat ≤ 255) (s : State) :
    encryptText m s =
      (sendBlocks (encode .enc) (blocksOf ((m.length + 15) / 16) (padSpaces (m.map byteOfChar))) s).map
        fun r => (r.1, hexOf r.2) := by
  have hno : (m.any fun c => 255 < c.toNat) = false := by simpa using h
  have hlen : (padSpaces (m.map byteOfChar)).length / 16 = (m.length + 15) / 16 := by
    rw [padSpaces_length, List.length_map]
    omega
  simp only [encryptText, hno, hlen]
  rfl

/-- `decrypt` of the hex digits of blocks (R224). -/
theorem decryptText_hexOf (ws : List Byte) {bs : List (List Byte)} (h : ∀ b ∈ bs, b.length = 16) (s : State) :
    decryptText ws (hexOf bs.flatten) s =
      (sendBlocks (encode .dec) bs s).map fun r => (r.1, (trimEnd ws r.2).map charOfByte) := by
  have hlen := length_flatten_blocks h
  have hmod : (hexOf bs.flatten).length % 32 = 0 := by
    rw [hexOf_length, hlen]
    omega
  have hdiv : bs.flatten.length / 16 = bs.length := by omega
  simp only [decryptText, hmod, bytesOfHex_hexOf, hdiv, blocksOf_flatten h]
  rfl

/-- With a key, block by block, `DEC` undoes `ENC`: `decrypt` trims what `encrypt` padded (R227). -/
theorem decryptText_encryptText {s : State} (ws : List Byte) {m : List Char} (hready : s.cmdReady = true) (hv : s.kvalid = true)
    (hchars : ∀ c ∈ m, c.toNat ≤ 255) :
    ∃ t u hex, encryptText m s = .ok (t, hex) ∧
      decryptText ws hex t = .ok (u, (trimEnd ws (padSpaces (m.map byteOfChar))).map charOfByte) := by
  have hpad : (padSpaces (m.map byteOfChar)).length = 16 * ((m.length + 15) / 16) := by
    rw [padSpaces_length, List.length_map]
  have hblocks := length_of_mem_blocksOf hpad.ge
  have hflat := flatten_blocksOf hpad
  have henc := encryptText_eq hchars s
  generalize blocksOf ((m.length + 15) / 16) (padSpaces (m.map byteOfChar)) = bs at hblocks hflat henc
  obtain ⟨t, ht, htready, hW, hksel, hkvalid⟩ := isBlockCommand_enc.sendBlocks bs hready hv
  obtain ⟨u, hu, -⟩ := isBlockCommand_dec.sendBlocks (bs.map (blockBytes encryptBlock s.roundKey s.ksel.nr)) htready
    (hkvalid.trans hv)
  have hback := map_blockBytes_map_blockBytes decryptBlock_encryptBlock s.roundKey s.ksel.nr hblocks
  refine ⟨t, u, _, henc.trans (congrArg _ ht), ?_⟩
  rw [decryptText_hexOf ws length_of_mem_map_blockBytes, hu, hksel, funext (State.roundKey_congr hW), hback, hflat]
  rfl

end Sys2Proof.Machine

namespace Sys2Proof

open Machine

/-- Settles O53: 16 bytes for each block of the padded text, two digits for each byte. -/
theorem encryptedTextLength : Obligations.EncryptedTextLength := by
  intro s t m hex h
  by_cases hchars : ∀ c ∈ m, c.toNat ≤ 255
  case neg =>
    have hyes : (m.any fun c => 255 < c.toNat) = true := by simpa using hchars
    simp [encryptText, hyes] at h
  case pos =>
    rw [encryptText_eq hchars] at h
    cases hsend : sendBlocks (encode .enc) (blocksOf ((m.length + 15) / 16) (padSpaces (m.map byteOfChar))) s with
    | error e => simp [hsend, Except.map] at h
    | ok r =>
      simp only [hsend, Except.map, Except.ok.injEq, Prod.mk.injEq] at h
      obtain ⟨-, rfl⟩ := h
      have hlen := sendBlocks_length hsend
      rw [blocksOf_length] at hlen
      exact ⟨by rw [hexOf_length, hlen]; omega, fun c hc => hexOf_mem hc⟩

/-- Settles O54: the two checks come before any command, and no command answers with that error. -/
theorem malformedCiphertextExactly : Obligations.MalformedCiphertextExactly := by
  intro s ws hex
  simp only [← hexValue_eq_none_iff]
  by_cases hlen : hex.length % 32 = 0
  case neg => simp [decryptText, hlen]
  case pos =>
    rw [← bytesOfHex_eq_none_iff hex (by omega)]
    cases hbytes : bytesOfHex hex with
    | none => simp [decryptText, hlen, hbytes]
    | some c =>
      have hne := sendBlocks_ne_malformedCiphertext (encode .dec) (blocksOf (c.length / 16) c) s
      cases hsend : sendBlocks (encode .dec) (blocksOf (c.length / 16) c) s with
      | error e => simpa [decryptText, hlen, hbytes, hsend, Except.map] using hne
      | ok r => simp [decryptText, hlen, hbytes, hsend, Except.map]

/-- Settles O52: the round trip gives the padded text trimmed, and the padding is in the set. -/
theorem textRoundTrip : Obligations.TextRoundTrip := by
  intro s ws m hready hv hchars hspace
  obtain ⟨t, u, hex, henc, hdec⟩ := decryptText_encryptText ws hready hv hchars
  rw [trimEnd_padSpaces hspace] at hdec
  refine ⟨t, u, hex, henc, hdec, fun hlast => ?_⟩
  have hkept : trimEnd ws (m.map byteOfChar) = m.map byteOfChar := trimEnd_of_getLast? fun b hb => by
    rw [List.getLast?_map, Option.map_eq_some_iff] at hb
    obtain ⟨c, hc, rfl⟩ := hb
    exact hlast c hc
  have hchar : (m.map byteOfChar).map charOfByte = m := by
    rw [List.map_map]
    exact (List.map_congr_left fun c hc => charOfByte_byteOfChar (hchars c hc)).trans (List.map_id m)
  rw [hdec, hkept, hchar]

end Sys2Proof
end
